-- ==== Sys2Proof/Word.lean ====
section
/-! DEFINITION. The bit-vector widths of the block (spec/10_state.md R14, spec/30_encoding.md R46, R56). -/

namespace Sys2Proof

/-- The operation word W (30_encoding R46): OP[23:20], RSV[19], PH[18:16], PL[15:0]. -/
abbrev Word := BitVec 24

/-- A byte of a serialised word (30_encoding R56) or of the frame (20_memory R34). -/
abbrev Byte := BitVec 8

/-- A tick of the free-running 16-bit counter, `TICK_W` = 16 (00_scope R8). -/
abbrev Tick := BitVec 16

/-- The 40-bit frame, `FRAME_BITS` = 40 (00_scope R8). -/
abbrev Frame := BitVec 40

end Sys2Proof
end

