-- ==== Sys2Proof/Config.lean ====
section
/-! DEFINITION. The implementation parameters: those spec/00_scope.md R8 fixes (with its values) and those
R9 leaves open (opaque constants without a body: no proof can see a value of one). -/

namespace Sys2Proof

/-- The platform float that `ReadTemperature()` and `ReadHumidity()` return (42_frame R86). No source gives its
format, so a value is an uninterpreted code and nothing is computed with it (DESIGN CHOICE, safe: log 8). -/
structure PlatformFloat where
  code : Nat
  deriving DecidableEq, Repr, Inhabited

/-- The Reading as RD_HUM, RD_TSIGN and RD_TMAG hold it (10_state R22): the type of `READING_RESET` (00_scope R9). -/
structure Reading where
  hum   : BitVec 16
  tSign : BitVec 1
  tMag  : BitVec 15
  deriving DecidableEq, Repr, Inhabited

namespace Config

/-- `TICK_W` (00_scope R8): the width of `Tick`. -/
def tickBits : Nat := 16

/-- `FRAME_BITS` (00_scope R8): the width of `Frame` and the count at which a frame completes. -/
def frameBits : Nat := 40

/-- `TOL` (00_scope R8): half-width of every tolerance window, in µs, inclusive. -/
def tol : Int := 25

/-- `NOM_ACK` (00_scope R8), µs. -/
def nomAck : Int := 80

/-- `NOM_GAP` (00_scope R8), µs. -/
def nomGap : Int := 50

/-- `NOM_SHORT` (00_scope R8), µs. -/
def nomShort : Int := 27

/-- `NOM_LONG` (00_scope R8), µs. -/
def nomLong : Int := 70

/-- `START_PULSE` (00_scope R8): 1 ms, in µs. A duty of the platform: no step rule reads it (43_trigger R91). -/
def startPulse : Nat := 1000

/-- 2 ticks to the microsecond (00_scope R10). A duty of the platform: no step rule reads it. -/
def ticksPerMicrosecond : Nat := 2

/-- `CAL_OFFSET` (00_scope R9): an exact rational in °C, open (log 7). -/
opaque calOffset : Rat

/-- `TEMP_TO_FLOAT` (00_scope R9), open (log 8). -/
opaque tempToFloat : Rat → PlatformFloat

/-- `HUM_TO_FLOAT` (00_scope R9), open (log 8). -/
opaque humToFloat : Rat → PlatformFloat

/-- `START_DELAY_TICKS` (00_scope R9): the `delayTicks` that encodes 1 ms, open (log 9). -/
opaque startDelayTicks : Nat

/-- `READING_RESET` (00_scope R9, 10_state R28): the draw of the Reading registers at the k-th reset (log 6). -/
opaque readingReset : Nat → Reading

/-- The draw of EDGE_TS at the k-th reset (10_state R28): any 16-bit value (log 6). -/
opaque edgeTsReset : Nat → Tick

end Config

end Sys2Proof
end

