-- ==== Sys2Proof/Syntax.lean ====
section
/-! DEFINITION. The operations of the block (spec/opcode_table.json, spec/30_encoding.md R48) and the names their
operands and refusals use. -/

namespace Sys2Proof

/-- The acquisition phases, in the source's listing order (10_state R18). -/
inductive Phase
  | idle
  | start
  | waitAck
  | ack
  | waitDataStart
  | waitData
  | data
  | ready
  deriving DecidableEq, Repr

/-- One constructor per row of spec/opcode_table.json. Ticks are 16-bit words (the block subtracts them mod 2^16);
the interval of CLASSIFY is an integer in µs, which `Instr.wf` holds to the range of 30_encoding R52. -/
inductive Instr
  /-- START (43_trigger R89). -/
  | start
  /-- STATUS (44_facade R94). -/
  | status
  /-- READ_TEMP (44_facade R95). -/
  | readTemp
  /-- READ_HUM (44_facade R96). -/
  | readHum
  /-- DELAY (43_trigger R90): the one-shot callback, with the tick `readTick()` returns. -/
  | delay (tick : Tick)
  /-- EDGE (41_capture R66): a captured edge, with its latched tick. -/
  | edge (tick : Tick)
  /-- CLASSIFY (40_classifier R64): the classifier probe, with a phase and an interval in µs. -/
  | classify (phase : Phase) (interval : Int)
  deriving DecidableEq, Repr

/-- Why a word spells no operation: the first failing condition of 30_encoding R49, as R50 names it. -/
inductive Reject
  /-- Condition 1: OP is not in 1..7. -/
  | illegalOpcode
  /-- Condition 2: bit 19 is set. -/
  | reservedBit
  /-- Conditions 3 and 4: PH (formats C and E) or PL (format C) is not 0. -/
  | reservedField
  deriving DecidableEq, Repr

end Sys2Proof
end

