-- ==== Sys2Proof/WellFormed.lean ====
section
/-! DEFINITION. Which instructions a word can spell: the operand ranges of spec/30_encoding.md R52 and R57. -/

namespace Sys2Proof

/-- The interval of a CLASSIFY fits the signed 16-bit PL field: [−32768, 32767] (30_encoding R52). Every other
operand has a type that holds exactly its encodable values (30_encoding R49). -/
def Instr.wf : Instr → Bool
  | .start => true
  | .status => true
  | .readTemp => true
  | .readHum => true
  | .delay _ => true
  | .edge _ => true
  | .classify _ iv => decide (-32768 ≤ iv) && decide (iv ≤ 32767)

end Sys2Proof
end

