-- ==== Sys2Proof/Decode.lean ====
section
/-! DEFINITION. The decoder, total on 24-bit words and on bytes, rejecting by name (spec/30_encoding.md R46 to R52,
R56), and after it the encoder. Every bit position is the spec's own decision (92_eei_decisions D1, D2, D29). -/

namespace Sys2Proof

/-! ## Fields and codes -/

/-- `sint16(u)`: the two's-complement reading of a 16-bit value (00_scope R11). -/
def sint16 (u : BitVec 16) : Int :=
  if u.toNat < 2 ^ 15 then (u.toNat : Int) else (u.toNat : Int) - 2 ^ 16

/-- OP = W[23:20] (30_encoding R46). -/
def opField (w : Word) : BitVec 4 := w.extractLsb' 20 4

/-- RSV = W[19] (30_encoding R46). -/
def rsvField (w : Word) : BitVec 1 := w.extractLsb' 19 1

/-- PH = W[18:16] (30_encoding R46). -/
def phField (w : Word) : BitVec 3 := w.extractLsb' 16 3

/-- PL = W[15:0] (30_encoding R46). -/
def plField (w : Word) : BitVec 16 := w.extractLsb' 0 16

/-- The 3-bit phase code (10_state R18). -/
def Phase.code : Phase → BitVec 3
  | .idle => 0
  | .start => 1
  | .waitAck => 2
  | .ack => 3
  | .waitDataStart => 4
  | .waitData => 5
  | .data => 6
  | .ready => 7

/-- The phase of a code: every code 0..7 is a phase (10_state R18). -/
def Phase.ofCode (c : BitVec 3) : Phase :=
  match c.toFin with
  | 0 => .idle
  | 1 => .start
  | 2 => .waitAck
  | 3 => .ack
  | 4 => .waitDataStart
  | 5 => .waitData
  | 6 => .data
  | 7 => .ready

/-! ## Decoding -/

/-- Conditions 1 to 4 of 30_encoding R49, tested in that order: the first one that fails, or none for a legal word. -/
def rejectReason (w : Word) : Option Reject :=
  if ¬ (1 ≤ (opField w).toNat ∧ (opField w).toNat ≤ 7) then some .illegalOpcode
  else if rsvField w ≠ 0 then some .reservedBit
  else if (opField w).toNat ≤ 6 ∧ phField w ≠ 0 then some .reservedField
  else if (opField w).toNat ≤ 4 ∧ plField w ≠ 0 then some .reservedField
  else none

/-- The operation an opcode selects, with its operands read from the word as 30_encoding R51 and R52 say; none for
the codes 0x0 and 0x8..0xF of the opcode map (R48). -/
def selectOp (w : Word) : Option Instr :=
  match (opField w).toNat with
  | 1 => some .start
  | 2 => some .status
  | 3 => some .readTemp
  | 4 => some .readHum
  | 5 => some (.delay (plField w))
  | 6 => some (.edge (plField w))
  | 7 => some (.classify (Phase.ofCode (phField w)) (sint16 (plField w)))
  | _ => none

/-- The decoder: a legal word's operation, or the reason of the refusal (30_encoding R48 to R50). -/
def decode (w : Word) : Except Reject Instr :=
  match rejectReason w with
  | some r => .error r
  | none =>
    match selectOp w with
    | some i => .ok i
    | none => .error .illegalOpcode

/-- The word of three bytes, most significant byte first (30_encoding R56). -/
def wordOfBytes (b2 b1 b0 : Byte) : Word := b2 ++ (b1 ++ b0)

/-- Decodes the serialised form of 30_encoding R56: one word's answer and the bytes after it, or none where fewer
than three bytes are left (log 12). -/
def decodeBytes : List Byte → Option (Except Reject Instr × List Byte)
  | b2 :: b1 :: b0 :: rest => some (decode (wordOfBytes b2 b1 b0), rest)
  | _ => none

/-- A word of spec/opcode_table.json as a number: its low `nbits` bits, at most the 24 an operation has (log 1). -/
def tableWord (nbits w : Nat) : Word := BitVec.ofNat 24 (w % 2 ^ nbits)

/-- What the decoder reads from an opcode-table word. The table numbers a word's bits as 30_encoding R46 does, and an
operation is one 24-bit word (R56). -/
def decodeTableWord (nbits w : Nat) : Option Instr := (decode (tableWord nbits w)).toOption

/-! ## Encoding -/

/-- The operation code (30_encoding R48). -/
def Instr.opcode : Instr → BitVec 4
  | .start => 1
  | .status => 2
  | .readTemp => 3
  | .readHum => 4
  | .delay _ => 5
  | .edge _ => 6
  | .classify _ _ => 7

/-- The PH field: a phase code in CLASSIFY, else 0 (30_encoding R46, R47). -/
def Instr.phBits : Instr → BitVec 3
  | .start => 0
  | .status => 0
  | .readTemp => 0
  | .readHum => 0
  | .delay _ => 0
  | .edge _ => 0
  | .classify p _ => p.code

/-- The PL field: the tick, the signed interval, or 0 (30_encoding R46, R47). -/
def Instr.plBits : Instr → BitVec 16
  | .start => 0
  | .status => 0
  | .readTemp => 0
  | .readHum => 0
  | .delay t => t
  | .edge t => t
  | .classify _ iv => BitVec.ofInt 16 iv

/-- The word {OP, RSV = 0, PH, PL} of a well-formed instruction (30_encoding R46 to R48). -/
def encode (i : Instr) : Word := i.opcode ++ (0#1 ++ (i.phBits ++ i.plBits))

/-- A word's three bytes, most significant first (30_encoding R56). -/
def bytesOfWord (w : Word) : List Byte := [w.extractLsb' 16 8, w.extractLsb' 8 8, w.extractLsb' 0 8]

end Sys2Proof
end

