-- ==== Sys2Proof/Machine/State.lean ====
section
/-! DEFINITION. The state of the block: the 13 registers of spec/10_state.md R14, and the model's own fields that hold
a step's outputs (00_scope R7), the event history (60_exceptions R99) and the inputs still to come (00_scope R6). -/

namespace Sys2Proof.Machine

/-- Which edge the capture source latches (10_state R24): 0 = Negative (falling), 1 = Positive (rising). -/
inductive Polarity
  | negative
  | positive
  deriving DecidableEq, Repr

/-- Line direction (10_state R26): 0 = Input, 1 = Output. -/
inductive LineDir
  | input
  | output
  deriving DecidableEq, Repr

/-- Driven level (10_state R26): 0 = Low, 1 = High. -/
inductive Level
  | low
  | high
  deriving DecidableEq, Repr

/-- The platform actions the block emits: the full list of 60_exceptions R112. -/
inductive Action
  | setLineDirection (dir : LineDir)
  | setLineLevel (level : Level)
  | setPullUp (on : Bool)
  | scheduleOneShot (delayTicks : Nat)
  | cancelOneShot
  | enableCapture (polarity : Polarity)
  | setCapturePolarity (polarity : Polarity)
  | disableCapture
  deriving DecidableEq, Repr

/-- The responses of 30_encoding R53; START, DELAY and EDGE give none. -/
inductive Response
  /-- The status code of STATUS, 2 bits (30_encoding R55). -/
  | status (code : BitVec 2)
  /-- TRAW, TVAL and TEMP_TO_FLOAT(TVAL) of READ_TEMP (44_facade R95). -/
  | temperature (raw : BitVec 16) (value : Rat) (float : PlatformFloat)
  /-- HRAW, HVAL and HUM_TO_FLOAT(HVAL) of READ_HUM (44_facade R96). -/
  | humidity (raw : BitVec 16) (value : Rat) (float : PlatformFloat)
  /-- The class code of CLASSIFY, 3 bits (30_encoding R54). -/
  | classification (code : BitVec 3)
  deriving DecidableEq, Repr

/-- The cause of an `IdleEntry` (41_capture R74), with the information 60_exceptions R99 records for it. -/
inductive IdleCause
  /-- Code 1: the phase and the interval (60_exceptions R100). -/
  | timingViolation (phase : Phase) (interval : Int)
  /-- Code 2: the 40-bit frame (60_exceptions R101). -/
  | checksumMismatch (frame : Frame)
  /-- Code 3: the phase left by a READ_TEMP or READ_HUM (44_facade R95, R96). -/
  | consumed (left : Phase)
  deriving DecidableEq, Repr

/-- The observation events of 60_exceptions R99. No register holds them and no operation reads them. -/
inductive Event
  /-- Codes 1 to 3. -/
  | idleEntered (cause : IdleCause)
  /-- Code 4: the humidity field {HH, HL} and the temperature field {TH, TL} (42_frame R83). -/
  | framePublished (humidity temperature : BitVec 16)
  /-- Code 5: an ill-formed word and the reason of its refusal (60_exceptions R103). -/
  | refused (word : Word) (reason : Reject)
  deriving DecidableEq, Repr

/-- What the outside world presents to the block: an operation word (30_encoding R46) or the reset input, which is
no operation word (70_reset_and_hazards R119). -/
inductive Input
  | word (w : Word)
  | reset
  deriving DecidableEq, Repr

/-- The machine's state. The first 13 fields are the registers of 10_state R14 and nothing else is architectural; the
last five are the model's own (log 1, 3, 4, 6). -/
structure State where
  /-- PHASE (10_state R18). -/
  phase : Phase
  /-- EDGE_TS, the last captured tick (10_state R19). -/
  edgeTs : Tick
  /-- ACC, the frame accumulator (10_state R20). -/
  acc : Frame
  /-- CNT, the frame bit counter, held in 6 bits (10_state R21). -/
  cnt : BitVec 6
  /-- RD_HUM (10_state R22). -/
  rdHum : BitVec 16
  /-- RD_TSIGN (10_state R22). -/
  rdTSign : BitVec 1
  /-- RD_TMAG (10_state R22). -/
  rdTMag : BitVec 15
  /-- CAP_EN, the edge-capture source enable (10_state R23). -/
  capEn : Bool
  /-- CAP_EDGE, the capture polarity (10_state R24). -/
  capEdge : Polarity
  /-- OS_ARMED, the one-shot is armed (10_state R25). -/
  osArmed : Bool
  /-- LINE_DIR (10_state R26). -/
  lineDir : LineDir
  /-- LINE_LVL (10_state R26). -/
  lineLvl : Level
  /-- LINE_PU, the pull-up is on (10_state R26). -/
  linePu : Bool
  /-- The response of the last step (00_scope R7). -/
  resp : Option Response
  /-- The platform actions of the last step, in emission order (00_scope R7). -/
  acts : List Action
  /-- The recorded events, oldest first (00_scope R12, 60_exceptions R99). -/
  history : List Event
  /-- How many reset inputs were applied: the counter the reset draws of 10_state R28 are applied to. -/
  resets : Nat
  /-- The inputs the agents present, the next one first (00_scope R6, R7). -/
  pending : List Input
  deriving DecidableEq, Repr

/-- There is no fault: "There is no third outcome, no trap and no fault state" (60_exceptions R99). No meaning and no
step can raise one. -/
inductive Fault
  deriving DecidableEq, Repr

/-- The refusals. -/
inductive Refusal
  /-- Raised by an arm of `exec` for an instruction without a meaning: no arm of this model raises it. Safe. -/
  | notModelled (mnemonic : String)
  /-- Raised by `step` on a word that breaks 30_encoding R49, with the word and the first failing condition (R50,
  60_exceptions R103). The spec itself refuses such a word. Safe. -/
  | illFormed (word : Word) (reason : Reject)
  deriving DecidableEq, Repr

/-- What is recorded for a refusal: code 5 of 60_exceptions R99 for an ill-formed word. -/
def Refusal.events : Refusal → List Event
  | .illFormed w r => [.refused w r]
  | .notModelled _ => []

/-- The actions a reset emits (70_reset_and_hazards R119). -/
def resetActions : List Action :=
  [.disableCapture, .cancelOneShot, .setLineDirection .input, .setPullUp true]

/-- The machine right after (power-on) reset: the values of 10_state R28, the draws of reset number 0 (log 6), the
actions of 70_reset_and_hazards R119, nothing recorded and nothing presented yet. -/
def State.reset : State where
  phase := .idle
  edgeTs := Config.edgeTsReset 0
  acc := 0
  cnt := 0
  rdHum := (Config.readingReset 0).hum
  rdTSign := (Config.readingReset 0).tSign
  rdTMag := (Config.readingReset 0).tMag
  capEn := false
  capEdge := .negative
  osArmed := false
  lineDir := .input
  lineLvl := .high
  linePu := true
  resp := none
  acts := resetActions
  history := []
  resets := 0
  pending := []

end Sys2Proof.Machine
end

