-- ==== Sys2Proof/Machine/Operands.lean ====
section
/-! DEFINITION. Values computed from operands and registers: the interval between two ticks (spec/40_classifier.md
R60), the fields of the frame (42_frame R80), and the values a read returns (42_frame R84, R85; 30_encoding R53). -/

namespace Sys2Proof.Machine

/-- `tdiv(d, 2)`: half, truncated toward zero (00_scope R11, 40_classifier R60; the rounding is the spec's decision D6). -/
def halve (d : Int) : Int := d.tdiv 2

/-- `Interval(cur, prev)`: half the signed difference mod 2^16 of two ticks, in µs (40_classifier R60). -/
def interval (cur prev : Tick) : Int := halve (sint16 (cur - prev))

/-! ## The frame's bytes (20_memory R34, 42_frame R80) -/

/-- HH = ACC[39:32], humidity-high. -/
def frameHH (v : Frame) : Byte := v.extractLsb' 32 8

/-- HL = ACC[31:24], humidity-low. -/
def frameHL (v : Frame) : Byte := v.extractLsb' 24 8

/-- TH = ACC[23:16], temperature-high. -/
def frameTH (v : Frame) : Byte := v.extractLsb' 16 8

/-- TL = ACC[15:8], temperature-low. -/
def frameTL (v : Frame) : Byte := v.extractLsb' 8 8

/-- CS = ACC[7:0], the checksum. -/
def frameCS (v : Frame) : Byte := v.extractLsb' 0 8

/-- {HH, HL}: what RD_HUM is published from (42_frame R83). -/
def frameHumidity (v : Frame) : BitVec 16 := frameHH v ++ frameHL v

/-- {TH, TL}: the temperature field (42_frame R83). -/
def frameTemperature (v : Frame) : BitVec 16 := frameTH v ++ frameTL v

/-- TH[7], bit 15 of {TH, TL} (42_frame R83). -/
def frameTSign (v : Frame) : BitVec 1 := (frameTH v).extractLsb' 7 1

/-- {TH[6:0], TL}, bits 14:0 of {TH, TL} (42_frame R83). -/
def frameTMag (v : Frame) : BitVec 15 := (frameTH v).extractLsb' 0 7 ++ frameTL v

/-! ## What a read returns -/

/-- n/10 as an exact rational (00_scope R11). -/
def tenths (n : Int) : Rat := mkRat n 10

/-- HVAL = RD_HUM / 10, in percent relative humidity (42_frame R84). -/
def humidityValue (hum : BitVec 16) : Rat := tenths hum.toNat

/-- The sign-magnitude reading of {RD_TSIGN, RD_TMAG} in tenths of a degree: sign 1 negates (42_frame R85). -/
def signedTenths (sign : BitVec 1) (mag : BitVec 15) : Int :=
  if sign = 1 then -(mag.toNat : Int) else (mag.toNat : Int)

/-- TVAL = ±RD_TMAG / 10 + CAL_OFFSET, in °C (42_frame R85). -/
def temperatureValue (sign : BitVec 1) (mag : BitVec 15) : Rat :=
  tenths (signedTenths sign mag) + Config.calOffset

/-- TRAW = {RD_TSIGN, RD_TMAG}, 16 bits (30_encoding R53). -/
def temperatureRaw (sign : BitVec 1) (mag : BitVec 15) : BitVec 16 := sign ++ mag

/-- The response of READ_TEMP: TRAW, TVAL and the platform float of TVAL (44_facade R95). -/
def temperatureResponse (s : State) : Response :=
  .temperature (temperatureRaw s.rdTSign s.rdTMag) (temperatureValue s.rdTSign s.rdTMag)
    (Config.tempToFloat (temperatureValue s.rdTSign s.rdTMag))

/-- The response of READ_HUM: HRAW, HVAL and the platform float of HVAL (44_facade R96). -/
def humidityResponse (s : State) : Response :=
  .humidity s.rdHum (humidityValue s.rdHum) (Config.humToFloat (humidityValue s.rdHum))

end Sys2Proof.Machine
end

