-- ==== Sys2Proof/Machine/Flags.lean ====
section
/-! DEFINITION. The block has no flags (spec/10_state.md R17). Its only status-like outputs are the class a
timing window gives an interval (40_classifier R61 to R63, codes 30_encoding R54) and the status of a phase (44_facade
R94, codes 30_encoding R55). Here too stands the frame's checksum test (42_frame R81). -/

namespace Sys2Proof.Machine

/-! ## The timing classifier -/

/-- The classifier's results (30_encoding R54). -/
inductive Class
  | noMatch
  | matchesAck
  | matchesShort
  | matchesLong
  | matchesStartGap
  deriving DecidableEq, Repr

/-- The 3-bit class codes; 5 to 7 are never produced (30_encoding R54). -/
def Class.code : Class → BitVec 3
  | .noMatch => 0
  | .matchesAck => 1
  | .matchesShort => 2
  | .matchesLong => 3
  | .matchesStartGap => 4

/-- `InWin(i, n)`: i lies within TOL of the nominal n, both ends included (40_classifier R61). -/
def inWin (i n : Int) : Bool := decide (n - Config.tol ≤ i) && decide (i ≤ n + Config.tol)

/-- `Classify(p, i)` (40_classifier R61): only the windows of the phase are tested, SHORT before LONG in Data (R62),
and the phases without a window give no-match (R63). -/
def classify (p : Phase) (i : Int) : Class :=
  match p with
  | .ack => if inWin i Config.nomAck then .matchesAck else .noMatch
  | .waitDataStart => if inWin i Config.nomAck then .matchesAck else .noMatch
  | .waitData => if inWin i Config.nomGap then .matchesStartGap else .noMatch
  | .data =>
    if inWin i Config.nomShort then .matchesShort
    else if inWin i Config.nomLong then .matchesLong
    else .noMatch
  | .idle => .noMatch
  | .start => .noMatch
  | .waitAck => .noMatch
  | .ready => .noMatch

/-! ## Phases and status -/

/-- A capture phase: "EdgeTimestamp is meaningful" (00_scope §6, 10_state R19). -/
def isCapture : Phase → Bool
  | .waitAck => true
  | .ack => true
  | .waitDataStart => true
  | .waitData => true
  | .data => true
  | .idle => false
  | .start => false
  | .ready => false

/-- A phase in which START is accepted: Idle or Ready (43_trigger R89). -/
def isStartable (p : Phase) : Bool := p = .idle || p = .ready

/-- The status a caller can see (44_facade R94). -/
inductive Status
  | idle
  | busy
  | ready
  deriving DecidableEq, Repr

/-- Ready in Ready, Idle in Idle, else Busy (44_facade R94). -/
def statusOf (p : Phase) : Status :=
  if p = .ready then .ready else if p = .idle then .idle else .busy

/-- The 2-bit status codes; 3 is never produced (30_encoding R55). -/
def Status.code : Status → BitVec 2
  | .idle => 0
  | .busy => 1
  | .ready => 2

/-! ## The checksum -/

/-- SUM = (HH + HL + TH + TL) mod 256 (42_frame R81). -/
def frameSum (v : Frame) : Byte := frameHH v + frameHL v + frameTH v + frameTL v

/-- The frame is valid if and only if CS = SUM (42_frame R81); no other check is made (R87). -/
def frameValid (v : Frame) : Bool := frameCS v = frameSum v

end Sys2Proof.Machine
end

