-- ==== Sys2Proof/Machine/Ops.lean ====
section
/-! DEFINITION. The shared operations: a step's outputs (spec/00_scope.md R7, R12), `IdleEntry` (41_capture R74; what
a processor's taking an exception is to this block, with nothing saved and no return: 60_exceptions R106, R107), the
phase advance (41_capture R69 to R73), `AppendBit` and `CompleteFrame` (42_frame R78 to R83), the reset input
(70_reset_and_hazards R119), and taking the next input (00_scope R7). -/

namespace Sys2Proof.Machine

/-! ## Outputs of a step -/

/-- A step begins with no response and no action (00_scope R7; log 3). -/
def State.clearOutputs (s : State) : State := { s with resp := none, acts := [] }

/-- `respond v` (00_scope R12). -/
def State.respond (r : Response) (s : State) : State := { s with resp := some r }

/-- `emit A` (00_scope R12): appends an action; it changes no register. -/
def State.emit (a : Action) (s : State) : State := { s with acts := s.acts ++ [a] }

/-- `record E` (00_scope R12): appends an event to the history. -/
def State.record (e : Event) (s : State) : State := { s with history := s.history ++ [e] }

/-! ## Returning to Idle and advancing -/

/-- `IdleEntry(cause)`, the one procedure that aborts or ends an acquisition in Idle (41_capture R74). -/
def idleEntry (cause : IdleCause) (s : State) : State :=
  ({ s with phase := .idle, acc := 0, cnt := 0, capEn := false }.emit .disableCapture).record (.idleEntered cause)

/-- An accepted transition of the phase table: the new phase and the polarity flipped to it (41_capture R69 to R73). -/
def advance (p : Phase) (pol : Polarity) (s : State) : State :=
  { s with phase := p, capEdge := pol }.emit (.setCapturePolarity pol)

/-! ## The frame -/

/-- `AppendBit(b)`: shift left by one, OR the bit into ACC[0], count it (42_frame R78). -/
def appendBit (b : BitVec 1) (s : State) : State :=
  { s with acc := (s.acc <<< 1) ||| b.setWidth 40, cnt := s.cnt + 1 }

/-- A valid frame is published: the Reading is written and PHASE becomes Ready (42_frame R83). -/
def publishFrame (s : State) : State :=
  ({ s with
      rdHum := frameHumidity s.acc
      rdTSign := frameTSign s.acc
      rdTMag := frameTMag s.acc
      phase := .ready
      acc := 0
      cnt := 0
      capEn := false }.emit .disableCapture).record
    (.framePublished (frameHumidity s.acc) (frameTemperature s.acc))

/-- `CompleteFrame()`: publish a valid frame (42_frame R83), else IdleEntry(ChecksumMismatch) (R82). -/
def completeFrame (s : State) : State :=
  if frameValid s.acc then publishFrame s else idleEntry (.checksumMismatch s.acc) s

/-- What an accepted bit does in Data: append it, go back to WaitData, and complete the frame at the 40th (41_capture
R66, R73; 42_frame R79). -/
def acceptBit (b : BitVec 1) (s : State) : State :=
  let s := advance .waitData .positive (appendBit b s)
  if s.cnt.toNat = Config.frameBits then completeFrame s else s

/-! ## Inputs -/

/-- The reset input (70_reset_and_hazards R119): every register takes its value of 10_state R28, with new draws, and
the reset's actions are emitted. The history goes on (log 4) and the inputs still to come stay (log 1). -/
def applyReset (s : State) : State :=
  { State.reset with
    edgeTs := Config.edgeTsReset (s.resets + 1)
    rdHum := (Config.readingReset (s.resets + 1)).hum
    rdTSign := (Config.readingReset (s.resets + 1)).tSign
    rdTMag := (Config.readingReset (s.resets + 1)).tMag
    history := s.history
    resets := s.resets + 1
    pending := s.pending }

/-- Takes the next presented input (00_scope R7: one word a step), or none where nothing is presented. -/
def takeInput (s : State) : Option (Input × State) :=
  match s.pending with
  | [] => none
  | i :: rest => some (i, { s with pending := rest })

/-- What a refused word leaves: the state unchanged, no response, no action, and `Refused` recorded, which is the
refusal mark of the whole run (30_encoding R50, 60_exceptions R103; log 5). `step` itself answers `refused`; a run that
goes on past a refusal goes on from here. -/
def afterRefusal (r : Refusal) (s : State) : State :=
  { s.clearOutputs with history := s.history ++ r.events }

/-- Whether an event is `Refused` (60_exceptions R99, code 5). -/
def isRefused : Event → Bool
  | .idleEntered _ => false
  | .framePublished _ _ => false
  | .refused _ _ => true

/-- The refusal mark of the run (30_encoding R50): some word was refused. -/
def refusalMark (s : State) : Bool := s.history.any isRefused

end Sys2Proof.Machine
end

