-- ==== Sys2Proof/Machine/Capture.lean ====
section
/-! DEFINITION. EDGE, the capture event and the acquisition state machine (spec/41_capture.md R66 to R73). -/

namespace Sys2Proof.Machine

/-- The phase table for an effective edge whose interval is `i` (41_capture R69 to R73). -/
def edgeRow (i : Int) (s : State) : State :=
  match s.phase with
  | .waitAck => advance .ack .positive s
  | .ack =>
    if classify .ack i = .matchesAck then advance .waitDataStart .negative s
    else idleEntry (.timingViolation .ack i) s
  | .waitDataStart =>
    if classify .waitDataStart i = .matchesAck then advance .waitData .positive s
    else idleEntry (.timingViolation .waitDataStart i) s
  | .waitData =>
    if classify .waitData i = .matchesStartGap then advance .data .negative s
    else idleEntry (.timingViolation .waitData i) s
  | .data =>
    match classify .data i with
    | .matchesShort => acceptBit 0 s
    | .matchesLong => acceptBit 1 s
    | .matchesAck => idleEntry (.timingViolation .data i) s
    | .matchesStartGap => idleEntry (.timingViolation .data i) s
    | .noMatch => idleEntry (.timingViolation .data i) s
  | .idle => s
  | .start => s
  | .ready => s

/-- An edge has an effect only while CAP_EN = 1 and in a capture phase (41_capture R67); then EDGE_TS takes its tick,
match or not (R68), and the phase's row runs on the interval from the tick before. -/
def edgeEffect (t : Tick) (s : State) : State :=
  if s.capEn = true ∧ isCapture s.phase = true then
    edgeRow (interval t s.edgeTs) { s with edgeTs := t }
  else s

/-- EDGE (41_capture R66). No response. -/
def execEdge (t : Tick) (s : State) : Host.Outcome State Fault Refusal :=
  .next (edgeEffect t s.clearOutputs)

end Sys2Proof.Machine
end

