-- ==== Sys2Proof/Machine/Classifier.lean ====
section
/-! DEFINITION. CLASSIFY, the classifier probe (spec/40_classifier.md R64). -/

namespace Sys2Proof.Machine

/-- CLASSIFY (40_classifier R64): `respond Classify(PH, iv)`. No register is read or written (on an interval
that no word carries: log 14). -/
def execClassify (p : Phase) (iv : Int) (s : State) : Host.Outcome State Fault Refusal :=
  .next (s.clearOutputs.respond (.classification (classify p iv).code))

end Sys2Proof.Machine
end

