-- ==== Sys2Proof/Machine/Facade.lean ====
section
/-! DEFINITION. STATUS, READ_TEMP and READ_HUM, the sensor facade (spec/44_facade.md R94 to R96). -/

namespace Sys2Proof.Machine

/-- STATUS (44_facade R94). -/
def execStatus (s : State) : Host.Outcome State Fault Refusal :=
  .next (s.clearOutputs.respond (.status (statusOf s.phase).code))

/-- READ_TEMP (44_facade R95): the cached temperature, and IdleEntry(Consumed) in every phase (R97). -/
def execReadTemp (s : State) : Host.Outcome State Fault Refusal :=
  .next (idleEntry (.consumed s.phase) (s.clearOutputs.respond (temperatureResponse s)))

/-- READ_HUM (44_facade R96): the cached humidity, and IdleEntry(Consumed) in every phase (R97). -/
def execReadHum (s : State) : Host.Outcome State Fault Refusal :=
  .next (idleEntry (.consumed s.phase) (s.clearOutputs.respond (humidityResponse s)))

end Sys2Proof.Machine
end

