-- ==== Sys2Proof/Machine/Trigger.lean ====
section
/-! DEFINITION. START and DELAY, the trigger controller (spec/43_trigger.md R89, R90, R93). -/

namespace Sys2Proof.Machine

/-- The accepted START: PHASE, the line driven low, the one-shot scheduled (43_trigger R89, R91). -/
def beginAcquisition (s : State) : State :=
  let s := { s with phase := .start }
  let s := { s with lineDir := .output }.emit (.setLineDirection .output)
  let s := { s with lineLvl := .low }.emit (.setLineLevel .low)
  { s with osArmed := true }.emit (.scheduleOneShot Config.startDelayTicks)

/-- START (43_trigger R89): accepted in Idle and Ready, else a silent no-op. -/
def execStart (s : State) : Host.Outcome State Fault Refusal :=
  if isStartable s.phase then .next (beginAcquisition s.clearOutputs) else .next s.clearOutputs

/-- The callback's end: the one-shot that fired is disabled (43_trigger R90, R93). -/
def disarmOneShot (s : State) : State := { s with osArmed := false }.emit .cancelOneShot

/-- The callback in phase Start: release the line, take the baseline tick, enable capture on the negative edge, disarm
the one-shot (43_trigger R90). -/
def beginCapture (t : Tick) (s : State) : State :=
  let s := { s with phase := .waitAck }
  let s := { s with lineDir := .input }.emit (.setLineDirection .input)
  let s := { s with linePu := true }.emit (.setPullUp true)
  let s := { s with capEdge := .negative, edgeTs := t }
  let s := { s with capEn := true }.emit (.enableCapture .negative)
  disarmOneShot s

/-- DELAY (43_trigger R90): nothing when no callback is pending; a stale callback, in any phase but Start, only
disarms (R93). -/
def execDelay (t : Tick) (s : State) : Host.Outcome State Fault Refusal :=
  if s.osArmed = false then .next s.clearOutputs
  else if s.phase = .start then .next (beginCapture t s.clearOutputs)
  else .next (disarmOneShot s.clearOutputs)

end Sys2Proof.Machine
end

