-- ==== Sys2Proof/Machine/Dispatch.lean ====
section
/-! DEFINITION. The dispatch: one arm per operation of spec/opcode_table.json. -/

namespace Sys2Proof.Machine

def exec (i : Instr) (s : State) : Host.Outcome State Fault Refusal :=
  match i with
  | .start => Sys2Proof.Machine.execStart s
  | .status => Sys2Proof.Machine.execStatus s
  | .readTemp => Sys2Proof.Machine.execReadTemp s
  | .readHum => Sys2Proof.Machine.execReadHum s
  | .delay t => Sys2Proof.Machine.execDelay t s
  | .edge t => Sys2Proof.Machine.execEdge t s
  | .classify p iv => Sys2Proof.Machine.execClassify p iv s

end Sys2Proof.Machine
end

