-- ==== Sys2Proof/Machine/Step.lean ====
section
/-! DEFINITION. One step of the machine: the next presented input is applied (spec/00_scope.md R7). -/

namespace Sys2Proof.Machine

/-- One step. Nothing presented: no operation is applied, so no register changes ("The block itself is passive",
00_scope R6; log 2). A reset loads the reset values (70_reset_and_hazards R119). A word is decoded and its operation
runs, or it is refused with the reason (30_encoding R50). -/
def step (s : State) : Host.Outcome State Fault Refusal :=
  match takeInput s with
  | none => .next s.clearOutputs
  | some (.reset, s') => .next (applyReset s')
  | some (.word w, s') =>
    match decode w with
    | .ok i => exec i s'
    | .error r => .refused (.illFormed w r)

/-- `s` with an opcode-table word presented as the next input, before whatever was pending (log 1). -/
def State.withFetchWord (s : State) (nbits w : Nat) : State :=
  { s with pending := .word (tableWord nbits w) :: s.pending }

/-- The state a run goes on from after a step: the next state, or after a refused word the state with the word dropped
and the refusal recorded (30_encoding R50; log 5). -/
def resume (s : State) : State :=
  match step s with
  | .next s' => s'
  | .fault r => nomatch r
  | .refused r => afterRefusal r { s with pending := s.pending.tail }

end Sys2Proof.Machine
end

