-- ==== Sys2Proof/Machine/Assembler.lean ====
section
/-! DEFINITION. The assembler syntax and the pseudo-operations (spec/30_encoding.md R57 to R59, the spec's decision D25).
No operation of the block reads this file: it says which operation words a listing stands for. -/

namespace Sys2Proof.Machine

/-- One line of a listing: an operation (30_encoding R57) or a pseudo-operation (R58, R59). -/
inductive AsmLine
  | op (i : Instr)
  /-- `EDGE+ d`. -/
  | edgeRel (d : Tick)
  /-- `DELAY+ d`. -/
  | delayRel (d : Tick)
  /-- `ACK`. -/
  | ack
  /-- `BIT b`. -/
  | bit (b : Bool)
  /-- `FRAME v`. -/
  | frame (v : Frame)
  deriving DecidableEq, Repr

/-! ## Expansion -/

/-- The trace clock after an operation word: a DELAY or EDGE sets it to its tick (30_encoding R58). -/
def clockAfter (clock : Tick) : Instr → Tick
  | .delay t => t
  | .edge t => t
  | .start => clock
  | .status => clock
  | .readTemp => clock
  | .readHum => clock
  | .classify _ _ => clock

/-- `EDGE+ d` for each gap in turn, from the given clock (30_encoding R58). -/
def edgesFrom (clock : Tick) : List Tick → List Instr
  | [] => []
  | d :: ds => .edge (clock + d) :: edgesFrom (clock + d) ds

/-- The gaps of `ACK`, in ticks (30_encoding R59). -/
def ackGaps : List Tick := [60, 160, 160]

/-- The gaps of `BIT b`: the 50 µs low, then 27 µs high for 0 or 70 µs high for 1 (30_encoding R59). -/
def bitGaps (b : Bool) : List Tick := [100, if b then 140 else 54]

/-- The bits v[39], v[38], …, v[0] (30_encoding R59). -/
def frameBitList (v : Frame) : List Bool := (List.range 40).map v.getMsbD

/-- The gaps of `FRAME v`: `ACK`, then one `BIT` per bit, most significant first (30_encoding R59). -/
def frameGaps (v : Frame) : List Tick := ackGaps ++ (frameBitList v).flatMap bitGaps

/-- The operations a line expands to at a trace clock (30_encoding R58, R59). -/
def expandLine (clock : Tick) : AsmLine → List Instr
  | .op i => [i]
  | .edgeRel d => [.edge (clock + d)]
  | .delayRel d => [.delay (clock + d)]
  | .ack => edgesFrom clock ackGaps
  | .bit b => edgesFrom clock (bitGaps b)
  | .frame v => edgesFrom clock (frameGaps v)

/-- The operations of a listing, from a trace clock on (30_encoding R58: the clock is 0 at a listing's start). -/
def expandLines (clock : Tick) : List AsmLine → List Instr
  | [] => []
  | l :: ls => expandLine clock l ++ expandLines ((expandLine clock l).foldl clockAfter clock) ls

/-! ## Text (30_encoding R57; what it leaves open is log 13) -/

/-- An assembly error. "A value out of range is an assembly error. The assembler never wraps it" (30_encoding R57). -/
inductive AsmError
  | unknownMnemonic
  | badOperands
  | outOfRange
  deriving DecidableEq, Repr

/-- White space inside a line. -/
def isBlank (c : Char) : Bool := c = ' ' || c = '\t' || c = '\r'

/-- A text without the white space at its two ends. -/
def trimBlanks (cs : List Char) : List Char :=
  ((cs.dropWhile isBlank).reverse.dropWhile isBlank).reverse

/-- The pieces of a text between separators. -/
def splitChar (sep : Char) : List Char → List (List Char)
  | [] => [[]]
  | c :: cs =>
    if c = sep then [] :: splitChar sep cs
    else
      match splitChar sep cs with
      | [] => [[c]]
      | l :: ls => (c :: l) :: ls

/-- A digit's value in a base up to 16. -/
def digitValue (base : Nat) (c : Char) : Option Nat :=
  let v :=
    if '0' ≤ c ∧ c ≤ '9' then some (c.toNat - '0'.toNat)
    else if 'a' ≤ c ∧ c ≤ 'f' then some (c.toNat - 'a'.toNat + 10)
    else if 'A' ≤ c ∧ c ≤ 'F' then some (c.toNat - 'A'.toNat + 10)
    else none
  v.filter (· < base)

/-- The value of a run of digits, after the value read so far. -/
def digitsValue (base : Nat) (acc : Nat) : List Char → Option Nat
  | [] => some acc
  | c :: cs =>
    match digitValue base c with
    | some d => digitsValue base (acc * base + d) cs
    | none => none

/-- A decimal number: one digit or more. -/
def decimal (cs : List Char) : Except AsmError Nat :=
  if cs = [] then .error .badOperands
  else
    match digitsValue 10 0 cs with
    | some n => .ok n
    | none => .error .badOperands

/-- A decimal or `0x` hex integer (30_encoding R57). -/
def natural (cs : List Char) : Except AsmError Nat :=
  match cs with
  | '0' :: 'x' :: c :: ds =>
    match digitsValue 16 0 (c :: ds) with
    | some n => .ok n
    | none => .error .badOperands
  | _ => decimal cs

/-- A natural below 2^n, in n bits; a larger one is out of range, never wrapped (30_encoding R57). -/
def natField (n : Nat) (cs : List Char) : Except AsmError (BitVec n) := do
  let v ← natural cs
  if v < 2 ^ n then .ok (BitVec.ofNat n v) else .error .outOfRange

/-- The interval of CLASSIFY: a decimal integer in −32768..32767 (30_encoding R57). -/
def intervalField (cs : List Char) : Except AsmError Int := do
  let v ← match cs with
    | '-' :: ds => (fun n => -(n : Int)) <$> decimal ds
    | _ => (fun n => (n : Int)) <$> decimal cs
  if -32768 ≤ v ∧ v ≤ 32767 then .ok v else .error .outOfRange

/-- The phase names of 10_state R18. -/
def phaseName : Phase → List Char
  | .idle => ['I', 'd', 'l', 'e']
  | .start => ['S', 't', 'a', 'r', 't']
  | .waitAck => ['W', 'a', 'i', 't', 'A', 'c', 'k']
  | .ack => ['A', 'c', 'k']
  | .waitDataStart => ['W', 'a', 'i', 't', 'D', 'a', 't', 'a', 'S', 't', 'a', 'r', 't']
  | .waitData => ['W', 'a', 'i', 't', 'D', 'a', 't', 'a']
  | .data => ['D', 'a', 't', 'a']
  | .ready => ['R', 'e', 'a', 'd', 'y']

/-- The phase operand of CLASSIFY: a phase name, or a code 0..7 (30_encoding R57). -/
def phaseField (cs : List Char) : Except AsmError Phase :=
  match [Phase.idle, .start, .waitAck, .ack, .waitDataStart, .waitData, .data, .ready].find? (phaseName · = cs) with
  | some p => .ok p
  | none => Phase.ofCode <$> natField 3 cs

/-- A mnemonic with its trimmed operands, as a line (30_encoding R57 to R59). -/
def lineOf (mnemonic : List Char) (operands : List (List Char)) : Except AsmError AsmLine :=
  let command (i : Instr) : Except AsmError AsmLine := if operands = [[]] then .ok (.op i) else .error .badOperands
  let one {α : Type} (f : List Char → Except AsmError α) (k : α → AsmLine) : Except AsmError AsmLine :=
    match operands with
    | [a] => k <$> f a
    | _ => .error .badOperands
  if mnemonic = ['S', 'T', 'A', 'R', 'T'] then command .start
  else if mnemonic = ['S', 'T', 'A', 'T', 'U', 'S'] then command .status
  else if mnemonic = ['R', 'E', 'A', 'D', '_', 'T', 'E', 'M', 'P'] then command .readTemp
  else if mnemonic = ['R', 'E', 'A', 'D', '_', 'H', 'U', 'M'] then command .readHum
  else if mnemonic = ['D', 'E', 'L', 'A', 'Y'] then one (natField 16) fun t => .op (.delay t)
  else if mnemonic = ['E', 'D', 'G', 'E'] then one (natField 16) fun t => .op (.edge t)
  else if mnemonic = ['C', 'L', 'A', 'S', 'S', 'I', 'F', 'Y'] then
    match operands with
    | [p, iv] => do
      let p ← phaseField p
      let iv ← intervalField iv
      return .op (.classify p iv)
    | _ => .error .badOperands
  else if mnemonic = ['E', 'D', 'G', 'E', '+'] then one (natField 16) .edgeRel
  else if mnemonic = ['D', 'E', 'L', 'A', 'Y', '+'] then one (natField 16) .delayRel
  else if mnemonic = ['A', 'C', 'K'] then (if operands = [[]] then .ok .ack else .error .badOperands)
  else if mnemonic = ['B', 'I', 'T'] then one (natField 1) fun b => .bit (b = 1)
  else if mnemonic = ['F', 'R', 'A', 'M', 'E'] then one (natField 40) .frame
  else .error .unknownMnemonic

/-- One line of text: `;` starts a comment, and an empty line is none (30_encoding R57). -/
def parseLine (cs : List Char) : Except AsmError (Option AsmLine) :=
  let body := trimBlanks (cs.takeWhile (· ≠ ';'))
  if body = [] then .ok none
  else some <$> lineOf (body.takeWhile (!isBlank ·)) ((splitChar ',' (body.dropWhile (!isBlank ·))).map trimBlanks)

/-- The lines of a text, or the first error. -/
def parseLines : List (List Char) → Except AsmError (List AsmLine)
  | [] => .ok []
  | l :: ls => do
    let a ← parseLine l
    let as ← parseLines ls
    return a.toList ++ as

/-- The operation words of a listing (30_encoding R57 to R59). -/
def assemble (text : List Char) : Except AsmError (List Word) := do
  let ls ← parseLines (splitChar '\n' text)
  return (expandLines 0 ls).map encode

end Sys2Proof.Machine
end

