-- ==== Sys2Proof/Safety.lean ====
section
/-! DEFINITION. What a safe run is, in the terms statements use: the invariants of spec/10_state.md R29, the platform's
duty (20_memory R41), what an acquisition's end is (70_reset_and_hazards R131), and what it means that the sensor sends
a frame (30_encoding R59, 60_exceptions R118). -/

namespace Sys2Proof.Machine

/-! ## The invariants -/

/-- The invariants of 10_state R29 (items 1 to 7), the part of item 8 that speaks of one state (an armed one-shot means
Start, or Idle with a stale callback, with the line still driven low: 43_trigger R93), and 43_trigger R92 ("The block
never drives the line high"). -/
structure Inv (s : State) : Prop where
  /-- Item 1: CNT ∈ [0, 39]. -/
  cnt_lt : s.cnt.toNat < 40
  /-- Item 1: ACC < 2^CNT. -/
  acc_lt : s.acc.toNat < 2 ^ s.cnt.toNat
  /-- Item 2: outside WaitData and Data the frame is empty. -/
  empty : s.phase ≠ .waitData → s.phase ≠ .data → s.cnt = 0 ∧ s.acc = 0
  /-- Item 3: CAP_EN = 1 exactly in the capture phases. -/
  capEn_iff : s.capEn = true ↔ isCapture s.phase = true
  /-- Item 4. -/
  start_line : s.phase = .start → s.osArmed = true ∧ s.lineDir = .output ∧ s.lineLvl = .low
  /-- Item 5. -/
  capture_line : isCapture s.phase = true → s.osArmed = false ∧ s.lineDir = .input ∧ s.linePu = true
  /-- Item 6: the two interrupt sources are never enabled together. -/
  exclusive : ¬ (s.osArmed = true ∧ s.capEn = true)
  /-- Item 7: Negative in WaitAck, WaitDataStart and Data. -/
  polarity_negative : s.phase = .waitAck ∨ s.phase = .waitDataStart ∨ s.phase = .data → s.capEdge = .negative
  /-- Item 7: Positive in Ack and WaitData. -/
  polarity_positive : s.phase = .ack ∨ s.phase = .waitData → s.capEdge = .positive
  /-- Item 8: armed in Start or, stale, in Idle, with the line driven low. -/
  armed_line : s.osArmed = true → (s.phase = .start ∨ s.phase = .idle) ∧ s.lineDir = .output ∧ s.lineLvl = .low
  /-- 43_trigger R92: an output line is driven low. -/
  never_high : s.lineDir = .output → s.lineLvl = .low

/-! ## Runs -/

/-- `k` steps, stopping at a refusal (00_scope R7; the steps of a run are totally ordered, 20_memory R40). -/
def run : Nat → State → Host.Outcome State Fault Refusal
  | 0, s => .next s
  | k + 1, s =>
    match step s with
    | .next s' => run k s'
    | .fault r => .fault r
    | .refused r => .refused r

/-! ## Contexts and the platform's duty -/

/-- The contexts of 60_exceptions R109; CLASSIFY belongs to neither. -/
inductive Context
  | interrupt
  | ordinary
  | probe
  deriving DecidableEq, Repr

/-- Which context an operation comes from (60_exceptions R109). The block does not check it. -/
def contextOf : Instr → Context
  | .delay _ => .interrupt
  | .edge _ => .interrupt
  | .start => .ordinary
  | .status => .ordinary
  | .readTemp => .ordinary
  | .readHum => .ordinary
  | .classify _ _ => .probe

/-- The enable of an operation's interrupt source: the platform delivers DELAY only while OS_ARMED = 1 and EDGE only
while CAP_EN = 1 (20_memory R41(a), 60_exceptions R104, R105). -/
def sourceEnabled (s : State) : Instr → Bool
  | .delay _ => s.osArmed
  | .edge _ => s.capEn
  | .start => true
  | .status => true
  | .readTemp => true
  | .readHum => true
  | .classify _ _ => true

/-! ## Acquisitions -/

/-- Busy: every phase other than Idle and Ready (00_scope §6). -/
def isBusy (p : Phase) : Bool := statusOf p = .busy

/-- From its accepted START on, an acquisition's phase is Busy until the first step that leaves PHASE in
{Idle, Ready}: that step completes it (70_reset_and_hazards R131). R131 speaks of steps, and the reset input is no
operation step (00_scope R7, R119), so whether a reset in a Busy phase completes the acquisition is open; any change from
a Busy phase to Idle or Ready counts here, a reset's included (DESIGN CHOICE: log 15). -/
def CompletesAcquisition (s t : State) : Prop := isBusy s.phase = true ∧ isBusy t.phase = false

/-- The step recorded `FramePublished` (70_reset_and_hazards R131, 60_exceptions R99). -/
def RecordsPublication (s t : State) : Prop := ∃ h v, t.history = s.history ++ [.framePublished h v]

/-! ## What the sensor sends -/

/-- One bit on the wire: how many ticks its low and its high part last. -/
structure BitTiming where
  low  : Nat
  high : Nat
  deriving DecidableEq, Repr

/-- The timing is read as bit `b`: the low part measures [25, 75] µs and the high part [2, 52] µs for 0 or [53, 95] µs
for 1, at 2 ticks to the microsecond (70_reset_and_hazards R129, the windows of 40_classifier R61, R62). -/
def BitTiming.Sends (g : BitTiming) (b : Bool) : Prop :=
  (25 ≤ g.low / 2 ∧ g.low / 2 ≤ 75) ∧
    (if b then 53 ≤ g.high / 2 ∧ g.high / 2 ≤ 95 else 2 ≤ g.high / 2 ∧ g.high / 2 ≤ 52)

/-- A frame on the wire, in ticks: the response latency, the two halves of the acknowledgement, the bits. -/
structure FrameTiming where
  latency : Nat
  ackLow  : Nat
  ackHigh : Nat
  bits    : List BitTiming
  deriving DecidableEq, Repr

/-- The gaps between the 83 edges (30_encoding R59). -/
def FrameTiming.gaps (f : FrameTiming) : List Tick :=
  ([f.latency, f.ackLow, f.ackHigh] ++ f.bits.flatMap fun g => [g.low, g.high]).map (BitVec.ofNat 16)

/-- The timing carries the frame `v`: any latency, an acknowledgement of two parts in [55, 105] µs, and 40 bits, most
significant first (70_reset_and_hazards R129, 20_memory R33). -/
def FrameTiming.Carries (f : FrameTiming) (v : Frame) : Prop :=
  (55 ≤ f.ackLow / 2 ∧ f.ackLow / 2 ≤ 105) ∧ (55 ≤ f.ackHigh / 2 ∧ f.ackHigh / 2 ≤ 105) ∧
    f.bits.length = 40 ∧ ∀ (k : Nat) (g : BitTiming), f.bits[k]? = some g → g.Sends (v.getMsbD k)

/-- The inputs of one acquisition: START, the callback at tick `t0`, and the edges of the frame (60_exceptions R118). -/
def acquisitionInputs (t0 : Tick) (f : FrameTiming) : List Input :=
  (.start :: .delay t0 :: edgesFrom t0 f.gaps).map fun i => .word (encode i)

end Sys2Proof.Machine
end

