-- ==== Sys2Proof/Certificates/Slice0/Obligations.lean ====
section
/-! DEFINITION. The statements about the model. Each docstring names the rules of spec/ it rests on; where a clause rests
on a decision the spec marks as its own (`D<n>` of 92_eei_decisions.md) or on an entry of notes/assumptions (`log <n>`),
it says so. A statement whose conclusion is `exec i s = .next …` gives the whole next state, so it is the instruction's
completion, result and frame at once. -/

open Sys2Proof Sys2Proof.Machine

/-! ## Encoding -/

/-- 30_encoding R48, R50 and R52 on some words, written out from the opcode map and the V-DEC table (decisions D1, D2, D29). -/
def Obligations.DecodeSampleWords : Prop :=
  decode 0x100000 = .ok .start ∧ decode 0x200000 = .ok .status ∧ decode 0x300000 = .ok .readTemp ∧
    decode 0x400000 = .ok .readHum ∧ decode 0x501234 = .ok (.delay 0x1234) ∧
    decode 0x6010A0 = .ok (.edge 0x10A0) ∧ decode 0x760030 = .ok (.classify .data 48) ∧
    decode 0x73FFB0 = .ok (.classify .ack (-80)) ∧ decode 0x000000 = .error .illegalOpcode ∧
    decode 0x180000 = .error .reservedBit ∧ decode 0x510000 = .error .reservedField

/-- Every well-formed instruction, with every operand at every value its encoding admits, is what its word decodes to
(30_encoding R46 to R52; the encoding is the spec's decision D1, D2). -/
def Obligations.DecodeOfEncodeIsIdentity : Prop :=
  ∀ i : Instr, i.wf = true → decode (encode i) = .ok i

/-- A word has one meaning: whatever decodes is well formed, and encoding it gives the word back (30_encoding R48, R49;
decisions D1, D2). -/
def Obligations.EncodeOfDecodeIsIdentity : Prop :=
  ∀ (w : Word) (i : Instr), decode w = .ok i → i.wf = true ∧ encode i = w

/-- The decoder accepts exactly the words that meet the four conditions of 30_encoding R49, said here in arithmetic of
the word's value (decisions D2, D29). -/
def Obligations.DecodeAcceptsExactlyLegalWords : Prop :=
  ∀ w : Word,
    (∃ i, decode w = .ok i) ↔
      (1 ≤ w.toNat / 2 ^ 20 ∧ w.toNat / 2 ^ 20 ≤ 7) ∧ w.toNat / 2 ^ 19 % 2 = 0 ∧
        (w.toNat / 2 ^ 20 ≤ 6 → w.toNat / 2 ^ 16 % 8 = 0) ∧ (w.toNat / 2 ^ 20 ≤ 4 → w.toNat % 2 ^ 16 = 0)

/-- An ill-formed word is refused with the first failing condition of 30_encoding R49 as its reason; where a run goes on
past it, no register has changed, nothing is emitted or answered, and the refusal is recorded (R50, 60_exceptions R103,
decision D29; that `step` itself stops there is the model's reading, log 5). -/
def Obligations.IllFormedWordRefusedWithFirstReason : Prop :=
  ∀ (s : State) (w : Word) (rest : List Input) (r : Reject), s.pending = .word w :: rest →
    (r = .illegalOpcode ∧ ¬ (1 ≤ w.toNat / 2 ^ 20 ∧ w.toNat / 2 ^ 20 ≤ 7)) ∨
      (r = .reservedBit ∧ (1 ≤ w.toNat / 2 ^ 20 ∧ w.toNat / 2 ^ 20 ≤ 7) ∧ w.toNat / 2 ^ 19 % 2 = 1) ∨
      (r = .reservedField ∧ (1 ≤ w.toNat / 2 ^ 20 ∧ w.toNat / 2 ^ 20 ≤ 7) ∧ w.toNat / 2 ^ 19 % 2 = 0 ∧
        ((w.toNat / 2 ^ 20 ≤ 6 ∧ w.toNat / 2 ^ 16 % 8 ≠ 0) ∨ (w.toNat / 2 ^ 20 ≤ 4 ∧ w.toNat % 2 ^ 16 ≠ 0))) →
    step s = .refused (.illFormed w r) ∧
      resume s = { s with pending := rest, resp := none, acts := [], history := s.history ++ [.refused w r] }

/-- Serialisation: a word is 3 bytes, most significant first, and the bytes of a well-formed instruction decode to it
and leave what follows (30_encoding R56, decision D1). -/
def Obligations.SerialisedInstructionDecodes : Prop :=
  ∀ (i : Instr) (rest : List Byte), i.wf = true →
    decodeBytes (bytesOfWord (encode i) ++ rest) = some (.ok i, rest) ∧
      (bytesOfWord (encode i)).map BitVec.toNat =
        [(encode i).toNat / 2 ^ 16, (encode i).toNat / 2 ^ 8 % 2 ^ 8, (encode i).toNat % 2 ^ 8]

/-- `FRAME v` stands for 83 EDGE words whose timing carries `v` (30_encoding R58, R59, decision D25). -/
def Obligations.FramePseudoOperationSendsItsFrame : Prop :=
  ∀ (clock : Tick) (v : Frame),
    (expandLine clock (.frame v)).length = 83 ∧
      ∃ f : FrameTiming, f.Carries v ∧ expandLine clock (.frame v) = edgesFrom clock f.gaps

/-! ## The step and reset -/

/-- A step runs the decoded instruction: when the next presented word decodes to `i`, the step is `exec i` on the state
with that input taken (00_scope R7; that inputs stand in `pending` is log 1). -/
def Obligations.StepRunsDecodedInstruction : Prop :=
  ∀ (s : State) (w : Word) (rest : List Input) (i : Instr), s.pending = .word w :: rest → decode w = .ok i →
    step s = exec i { s with pending := rest }

/-- The block is passive: a step with nothing presented changes no register (00_scope R6; the model's choice, log 2). -/
def Obligations.StepWithoutInputKeepsRegisters : Prop :=
  ∀ s : State, s.pending = [] → step s = .next { s with resp := none, acts := [] }

/-- The reset input loads every register with its value of 10_state R28, with a new draw for EDGE_TS and the Reading, and
emits the four actions of 70_reset_and_hazards R119, from every state (decision D16; the draws are free values, log 6;
the history goes on, log 4). -/
def Obligations.ResetInputLoadsResetValues : Prop :=
  ∀ (s : State) (rest : List Input), s.pending = .reset :: rest →
    step s = .next
      { phase := .idle, edgeTs := Config.edgeTsReset (s.resets + 1), acc := 0, cnt := 0
        rdHum := (Config.readingReset (s.resets + 1)).hum
        rdTSign := (Config.readingReset (s.resets + 1)).tSign
        rdTMag := (Config.readingReset (s.resets + 1)).tMag
        capEn := false, capEdge := .negative, osArmed := false, lineDir := .input, lineLvl := .high, linePu := true
        resp := none
        acts := [.disableCapture, .cancelOneShot, .setLineDirection .input, .setPullUp true]
        history := s.history, resets := s.resets + 1, pending := rest }

/-- After power-on the registers to which 10_state R28 gives a value hold it, and the actions of 70_reset_and_hazards R119
are emitted (decision D16). Nothing is said of EDGE_TS and the Reading, which are draws. -/
def Obligations.ResetStateHoldsGivenValues : Prop :=
  State.reset.phase = .idle ∧ State.reset.acc = 0 ∧ State.reset.cnt = 0 ∧ State.reset.capEn = false ∧
    State.reset.capEdge = .negative ∧ State.reset.osArmed = false ∧ State.reset.lineDir = .input ∧
    State.reset.lineLvl = .high ∧ State.reset.linePu = true ∧
    State.reset.acts = [.disableCapture, .cancelOneShot, .setLineDirection .input, .setPullUp true]

/-- Every legal word is accepted in every state (60_exceptions R109) with the outcome Next (R99), records at most one
event, none of them a refusal (R108), and touches neither the inputs to come nor the reset count (log 1, log 6). -/
def Obligations.EveryInstructionIsAccepted : Prop :=
  ∀ (i : Instr) (s : State), ∃ t, exec i s = .next t ∧ t.pending = s.pending ∧ t.resets = s.resets ∧
    (t.history = s.history ∨ ∃ e, isRefused e = false ∧ t.history = s.history ++ [e])

/-- The refusal mark is kept for the whole run (30_encoding R50): no step, refusal or reset takes it back (a reset does
not by the model's choice, log 4 and log 5). -/
def Obligations.RefusalMarkLastsTheRun : Prop :=
  ∀ s : State, refusalMark s = true → refusalMark (resume s) = true

/-! ## Trigger controller -/

/-- 43_trigger R89: START is accepted in Idle and Ready; in every other phase it is a silent no-op. -/
def Obligations.StartBeginsAcquisitionUnlessBusy : Prop :=
  ∀ s : State,
    (s.phase = .idle ∨ s.phase = .ready →
      exec .start s = .next { s with
        phase := .start, lineDir := .output, lineLvl := .low, osArmed := true, resp := none
        acts := [.setLineDirection .output, .setLineLevel .low, .scheduleOneShot Config.startDelayTicks] }) ∧
    (s.phase ≠ .idle → s.phase ≠ .ready → exec .start s = .next { s with resp := none, acts := [] })

/-- 43_trigger R90 in phase Start with the one-shot armed: the callback releases the line, takes its tick as baseline,
enables capture on the negative edge and disarms the one-shot, in the source's order (the guard on OS_ARMED is the spec's
decision D13). -/
def Obligations.DelayInStartEnablesCapture : Prop :=
  ∀ (s : State) (t : Tick), s.osArmed = true → s.phase = .start →
    exec (.delay t) s = .next { s with
      phase := .waitAck, lineDir := .input, linePu := true, capEdge := .negative, edgeTs := t, capEn := true
      osArmed := false, resp := none
      acts := [.setLineDirection .input, .setPullUp true, .enableCapture .negative, .cancelOneShot] }

/-- 43_trigger R90 and R93 elsewhere (the spec's decision D13): a DELAY with nothing scheduled has no effect, and a stale
one only disarms the one-shot. -/
def Obligations.DelayElsewhereOnlyDisarms : Prop :=
  ∀ (s : State) (t : Tick),
    (s.osArmed = false → exec (.delay t) s = .next { s with resp := none, acts := [] }) ∧
    (s.osArmed = true → s.phase ≠ .start →
      exec (.delay t) s = .next { s with osArmed := false, resp := none, acts := [.cancelOneShot] })

/-! ## Facade -/

/-- 44_facade R94: Ready answers 2, Idle 0, every other phase 1; no register is written. -/
def Obligations.StatusReportsPhase : Prop :=
  ∀ s : State,
    (s.phase = .ready → exec .status s = .next { s with resp := some (.status 2), acts := [] }) ∧
    (s.phase = .idle → exec .status s = .next { s with resp := some (.status 0), acts := [] }) ∧
    (s.phase ≠ .ready → s.phase ≠ .idle → exec .status s = .next { s with resp := some (.status 1), acts := [] })

/-- 44_facade R95, R97, 42_frame R85: READ_TEMP answers {RD_TSIGN, RD_TMAG}, the exact sign-magnitude value plus the
calibration offset and its platform float, and runs IdleEntry(Consumed) in every phase (that this clears the frame and
disables capture is the spec's decision D12; offset and float are free, log 7 and log 8). -/
def Obligations.ReadTempAnswersTemperatureAndIdles : Prop :=
  ∀ (s : State) (v : Rat),
    v = (if s.rdTSign = 1 then (-1 : Rat) else 1) * (s.rdTMag.toNat : Rat) / 10 + Config.calOffset →
    exec .readTemp s = .next { s with
      phase := .idle, acc := 0, cnt := 0, capEn := false
      resp := some (.temperature (BitVec.ofNat 16 (2 ^ 15 * s.rdTSign.toNat + s.rdTMag.toNat)) v (Config.tempToFloat v))
      acts := [.disableCapture], history := s.history ++ [.idleEntered (.consumed s.phase)] }

/-- 44_facade R96, R97, 42_frame R84: READ_HUM answers RD_HUM, its tenth and that value's platform float, and runs
IdleEntry(Consumed) in every phase (decision D12; the float is free, log 8). -/
def Obligations.ReadHumAnswersHumidityAndIdles : Prop :=
  ∀ (s : State) (v : Rat), v = (s.rdHum.toNat : Rat) / 10 →
    exec .readHum s = .next { s with
      phase := .idle, acc := 0, cnt := 0, capEn := false
      resp := some (.humidity s.rdHum v (Config.humToFloat v))
      acts := [.disableCapture], history := s.history ++ [.idleEntered (.consumed s.phase)] }

/-- 20_memory R38: a read resets the phase to Idle, its value is idempotent and its status effect is not (STATUS then
answers Idle); STATUS and CLASSIFY have no side effect and repeat their response. -/
def Obligations.ReadsAreIdempotentInValueOnly : Prop :=
  (∀ (i : Instr) (s : State), i = .readTemp ∨ i = .readHum →
    ∃ t u v, exec i s = .next t ∧ t.phase = .idle ∧ exec i t = .next u ∧ u.resp = t.resp ∧
      t.rdHum = s.rdHum ∧ t.rdTSign = s.rdTSign ∧ t.rdTMag = s.rdTMag ∧
      exec .status t = .next v ∧ v.resp = some (.status 0)) ∧
  (∀ (i : Instr) (s : State), (i = .status ∨ ∃ p iv, i = .classify p iv) →
    ∃ t, exec i s = .next t ∧ t = { s with resp := t.resp, acts := [] } ∧ exec i t = .next t)

/-! ## Classifier -/

/-- 40_classifier R60, 70_reset_and_hazards R126: a gap of `g` ticks measures half its signed 16-bit residue, truncated
toward zero (the spec's decision D6), whatever the first tick, and lies in [−16384, 16383]. -/
def Obligations.IntervalMeasuresGapModuloWrap : Prop :=
  ∀ (prev : Tick) (g : Nat),
    interval (prev + BitVec.ofNat 16 g) prev =
        (if g % 65536 < 32768 then ((g % 65536 : Nat) : Int) else ((g % 65536 : Nat) : Int) - 65536).tdiv 2 ∧
      -16384 ≤ interval (prev + BitVec.ofNat 16 g) prev ∧ interval (prev + BitVec.ofNat 16 g) prev ≤ 16383

/-- 40_classifier R61: each phase tests its own windows only, ±25 µs and inclusive, SHORT before LONG in Data (the
spec's decision D7); the other phases match nothing (D8). -/
def Obligations.ClassifierTestsItsPhaseWindows : Prop :=
  ∀ (p : Phase) (i : Int),
    classify p i =
      if (p = .ack ∨ p = .waitDataStart) ∧ 80 - 25 ≤ i ∧ i ≤ 80 + 25 then Class.matchesAck
      else if p = .waitData ∧ 50 - 25 ≤ i ∧ i ≤ 50 + 25 then .matchesStartGap
      else if p = .data ∧ 27 - 25 ≤ i ∧ i ≤ 27 + 25 then .matchesShort
      else if p = .data ∧ 70 - 25 ≤ i ∧ i ≤ 70 + 25 then .matchesLong
      else .noMatch

/-- 40_classifier R64, 30_encoding R54: CLASSIFY answers the class code of the interval in the phase it names (1 ack, 4
start gap, 2 short, 3 long, 0 none) and touches no register, whatever PHASE is (the probe and the codes are the spec's
decisions D2, D5; the order in Data is D7, the phases without a window D8; no word carries an interval outside
[−32768, 32767], and that those are answered the same way is the model's choice, log 14). -/
def Obligations.ClassifyAnswersWindowCode : Prop :=
  ∀ (p : Phase) (iv : Int) (s : State) (c : BitVec 3),
    ((p = .ack ∨ p = .waitDataStart) ∧ c = (if 55 ≤ iv ∧ iv ≤ 105 then 1 else 0)) ∨
      (p = .waitData ∧ c = (if 25 ≤ iv ∧ iv ≤ 75 then 4 else 0)) ∨
      (p = .data ∧ c = (if 2 ≤ iv ∧ iv ≤ 52 then 2 else if 53 ≤ iv ∧ iv ≤ 95 then 3 else 0)) ∨
      ((p = .idle ∨ p = .start ∨ p = .waitAck ∨ p = .ready) ∧ c = 0) →
    exec (.classify p iv) s = .next { s with resp := some (.classification c), acts := [] }

/-! ## Capture -/

/-- 41_capture R67 (the spec's decision D9): an EDGE while capture is disabled, or in Idle, Start or Ready, writes no
register and emits nothing. -/
def Obligations.EdgeOutsideCaptureHasNoEffect : Prop :=
  ∀ (s : State) (t : Tick), s.capEn = false ∨ s.phase = .idle ∨ s.phase = .start ∨ s.phase = .ready →
    exec (.edge t) s = .next { s with resp := none, acts := [] }

/-- 41_capture R69: the first edge, in WaitAck, is accepted at every tick. -/
def Obligations.EdgeInWaitAckIsAlwaysAccepted : Prop :=
  ∀ (s : State) (t : Tick), s.capEn = true → s.phase = .waitAck →
    exec (.edge t) s = .next { s with
      phase := .ack, capEdge := .positive, edgeTs := t, resp := none, acts := [.setCapturePolarity .positive] }

/-- 41_capture R70: in Ack an interval in [55, 105] µs goes on to WaitDataStart, any other is a TimingViolation
(how an odd difference is halved is the spec's decision D6, that EDGE_TS is written on a mismatch D10). -/
def Obligations.EdgeInAckChecksEightyMicroseconds : Prop :=
  ∀ (s : State) (t : Tick) (i : Int), s.capEn = true → s.phase = .ack → i = interval t s.edgeTs →
    (55 ≤ i ∧ i ≤ 105 →
      exec (.edge t) s = .next { s with
        phase := .waitDataStart, capEdge := .negative, edgeTs := t, resp := none
        acts := [.setCapturePolarity .negative] }) ∧
    (¬ (55 ≤ i ∧ i ≤ 105) →
      exec (.edge t) s = .next { s with
        phase := .idle, acc := 0, cnt := 0, capEn := false, edgeTs := t, resp := none, acts := [.disableCapture]
        history := s.history ++ [.idleEntered (.timingViolation .ack i)] })

/-- 41_capture R71: in WaitDataStart an interval in [55, 105] µs goes on to WaitData, any other is a TimingViolation
(how an odd difference is halved is the spec's decision D6, that EDGE_TS is written on a mismatch D10). -/
def Obligations.EdgeInWaitDataStartChecksEightyMicroseconds : Prop :=
  ∀ (s : State) (t : Tick) (i : Int), s.capEn = true → s.phase = .waitDataStart → i = interval t s.edgeTs →
    (55 ≤ i ∧ i ≤ 105 →
      exec (.edge t) s = .next { s with
        phase := .waitData, capEdge := .positive, edgeTs := t, resp := none
        acts := [.setCapturePolarity .positive] }) ∧
    (¬ (55 ≤ i ∧ i ≤ 105) →
      exec (.edge t) s = .next { s with
        phase := .idle, acc := 0, cnt := 0, capEn := false, edgeTs := t, resp := none, acts := [.disableCapture]
        history := s.history ++ [.idleEntered (.timingViolation .waitDataStart i)] })

/-- 41_capture R72: in WaitData an interval in [25, 75] µs goes on to Data, any other is a TimingViolation, which
discards the bits taken so far (how an odd difference is halved is the spec's decision D6, that EDGE_TS is written on a
mismatch D10). -/
def Obligations.EdgeInWaitDataChecksFiftyMicroseconds : Prop :=
  ∀ (s : State) (t : Tick) (i : Int), s.capEn = true → s.phase = .waitData → i = interval t s.edgeTs →
    (25 ≤ i ∧ i ≤ 75 →
      exec (.edge t) s = .next { s with
        phase := .data, capEdge := .negative, edgeTs := t, resp := none, acts := [.setCapturePolarity .negative] }) ∧
    (¬ (25 ≤ i ∧ i ≤ 75) →
      exec (.edge t) s = .next { s with
        phase := .idle, acc := 0, cnt := 0, capEn := false, edgeTs := t, resp := none, acts := [.disableCapture]
        history := s.history ++ [.idleEntered (.timingViolation .waitData i)] })

/-- 41_capture R73 with 42_frame R78, for a bit that is not the 40th: [2, 52] µs appends 0, [53, 95] µs appends 1 (the spec's
decisions D6, D7), ACC becomes 2·ACC + b mod 2^40, CNT counts, and the block waits for the next bit. In a run
CNT is at most 38 here; that a state with CNT in 40..63, which no run reaches (10_state R21), counts on modulo 64 is the
model's choice, log 11. -/
def Obligations.EdgeInDataAppendsBit : Prop :=
  ∀ (s : State) (t : Tick) (i : Int) (b : Nat), s.capEn = true → s.phase = .data → i = interval t s.edgeTs →
    s.cnt.toNat ≠ 39 → (b = 0 ∧ 2 ≤ i ∧ i ≤ 52) ∨ (b = 1 ∧ 53 ≤ i ∧ i ≤ 95) →
    exec (.edge t) s = .next { s with
      phase := .waitData, capEdge := .positive, edgeTs := t, acc := BitVec.ofNat 40 (2 * s.acc.toNat + b)
      cnt := BitVec.ofNat 6 (s.cnt.toNat + 1), resp := none, acts := [.setCapturePolarity .positive] }

/-- 41_capture R73: in Data an interval outside [2, 95] µs is a TimingViolation, and no bit is appended, the 40th
included (how an odd difference is halved is the spec's decision D6, that EDGE_TS is written on a mismatch D10). -/
def Obligations.EdgeInDataRejectsOtherIntervals : Prop :=
  ∀ (s : State) (t : Tick) (i : Int), s.capEn = true → s.phase = .data → i = interval t s.edgeTs →
    ¬ (2 ≤ i ∧ i ≤ 95) →
    exec (.edge t) s = .next { s with
      phase := .idle, acc := 0, cnt := 0, capEn := false, edgeTs := t, resp := none, acts := [.disableCapture]
      history := s.history ++ [.idleEntered (.timingViolation .data i)] }

/-- 42_frame R79 and R83: the edge that brings the 40th bit of a valid frame publishes it in the same step: RD_HUM =
{HH, HL}, RD_TSIGN = TH[7], RD_TMAG = {TH[6:0], TL}, PHASE Ready, the frame empty (that capture is disabled there is the
spec's decision D11; the halving and the order of the Data windows are D6, D7). -/
def Obligations.FortiethBitPublishesValidFrame : Prop :=
  ∀ (s : State) (t : Tick) (i : Int) (b : Nat) (v : Frame), s.capEn = true → s.phase = .data →
    i = interval t s.edgeTs → s.cnt.toNat = 39 → (b = 0 ∧ 2 ≤ i ∧ i ≤ 52) ∨ (b = 1 ∧ 53 ≤ i ∧ i ≤ 95) →
    v = BitVec.ofNat 40 (2 * s.acc.toNat + b) → frameValid v = true →
    exec (.edge t) s = .next { s with
      phase := .ready, capEdge := .positive, edgeTs := t, acc := 0, cnt := 0, capEn := false
      rdHum := v.extractLsb' 24 16, rdTSign := v.extractLsb' 23 1, rdTMag := v.extractLsb' 8 15, resp := none
      acts := [.setCapturePolarity .positive, .disableCapture]
      history := s.history ++ [.framePublished (v.extractLsb' 24 16) (v.extractLsb' 8 16)] }

/-- 42_frame R82: the 40th bit of a frame whose checksum is wrong ends the acquisition in Idle; the Reading is not
written and CAP_EDGE is left Positive (the halving and the order of the Data windows are the spec's decisions D6, D7). -/
def Obligations.FortiethBitOfInvalidFrameAborts : Prop :=
  ∀ (s : State) (t : Tick) (i : Int) (b : Nat) (v : Frame), s.capEn = true → s.phase = .data →
    i = interval t s.edgeTs → s.cnt.toNat = 39 → (b = 0 ∧ 2 ≤ i ∧ i ≤ 52) ∨ (b = 1 ∧ 53 ≤ i ∧ i ≤ 95) →
    v = BitVec.ofNat 40 (2 * s.acc.toNat + b) → frameValid v = false →
    exec (.edge t) s = .next { s with
      phase := .idle, capEdge := .positive, edgeTs := t, acc := 0, cnt := 0, capEn := false, resp := none
      acts := [.setCapturePolarity .positive, .disableCapture]
      history := s.history ++ [.idleEntered (.checksumMismatch v)] }

/-- 42_frame R80, R81, 20_memory R34: a frame put together from five bytes, humidity-high first and the checksum last, is
valid if and only if the checksum is the sum of the other four mod 256. -/
def Obligations.ChecksumIsByteSumModulo256 : Prop :=
  ∀ hh hl th tl cs : Byte,
    frameValid (hh ++ (hl ++ (th ++ (tl ++ cs)))) = true ↔
      cs.toNat = (hh.toNat + hl.toNat + th.toNat + tl.toNat) % 256

/-- 40_classifier R65 at the nominal timings: the interval a single missed capture gives, 210 µs in Ack, 157 in
WaitDataStart, 127 in WaitData, 104 or 147 in Data, ends the acquisition in Idle. -/
def Obligations.MissedCaptureAtNominalTimingAborts : Prop :=
  ∀ (s : State) (t : Tick) (i : Int), s.capEn = true → i = interval t s.edgeTs →
    (s.phase = .ack ∧ i = 210) ∨ (s.phase = .waitDataStart ∧ i = 157) ∨ (s.phase = .waitData ∧ i = 127) ∨
      (s.phase = .data ∧ (i = 104 ∨ i = 147)) →
    ∃ u, exec (.edge t) s = .next u ∧ u.phase = .idle ∧
      u.history = s.history ++ [.idleEntered (.timingViolation s.phase i)]

/-! ## Rules about the whole machine -/

/-- The invariants of 10_state R29 hold at reset (they are the spec's own consequences of its rules). -/
def Obligations.ResetMeetsInvariants : Prop := Inv State.reset

/-- Every step keeps the invariants of 10_state R29: whatever input comes next, reset included. -/
def Obligations.StepKeepsInvariants : Prop :=
  ∀ s t : State, Inv s → step s = .next t → Inv t

/-- 10_state R18: the phase moves only along the listed transitions (90_conflicts C1). -/
def Obligations.PhaseMovesOnlyAsListed : Prop :=
  ∀ (i : Instr) (s t : State), exec i s = .next t → t.phase ≠ s.phase →
    (i = .start ∧ (s.phase = .idle ∨ s.phase = .ready) ∧ t.phase = .start) ∨
    ((∃ x, i = .delay x) ∧ s.phase = .start ∧ t.phase = .waitAck) ∨
    ((i = .readTemp ∨ i = .readHum) ∧ t.phase = .idle) ∨
    ((∃ x, i = .edge x) ∧ s.capEn = true ∧
      ((s.phase = .waitAck ∧ t.phase = .ack) ∨ (s.phase = .ack ∧ t.phase = .waitDataStart) ∨
        (s.phase = .waitDataStart ∧ t.phase = .waitData) ∨ (s.phase = .waitData ∧ t.phase = .data) ∨
        (s.phase = .data ∧ (t.phase = .waitData ∨ t.phase = .ready)) ∨
        ((s.phase = .ack ∨ s.phase = .waitDataStart ∨ s.phase = .waitData ∨ s.phase = .data) ∧ t.phase = .idle)))

/-- 42_frame R88: only the EDGE that completes a valid frame writes the Reading, with that frame's fields; every other
instruction, and every other EDGE, leaves it as it was. -/
def Obligations.ReadingWrittenOnlyByValidFrame : Prop :=
  ∀ (i : Instr) (s t : State), exec i s = .next t →
    (t.rdHum = s.rdHum ∧ t.rdTSign = s.rdTSign ∧ t.rdTMag = s.rdTMag) ∨
    (∃ (x : Tick) (b : Nat), i = .edge x ∧ s.capEn = true ∧ s.phase = .data ∧ s.cnt.toNat = 39 ∧ b < 2 ∧
      frameValid (BitVec.ofNat 40 (2 * s.acc.toNat + b)) = true ∧ t.phase = .ready ∧
      t.rdHum = (BitVec.ofNat 40 (2 * s.acc.toNat + b)).extractLsb' 24 16 ∧
      t.rdTSign = (BitVec.ofNat 40 (2 * s.acc.toNat + b)).extractLsb' 23 1 ∧
      t.rdTMag = (BitVec.ofNat 40 (2 * s.acc.toNat + b)).extractLsb' 8 15)

/-- 10_state R23: CAP_EN is set only by the DELAY that leaves Start, and cleared only on the way to Idle or Ready
(clearing it at Ready is the spec's decision D11). -/
def Obligations.CaptureEnabledOnlyByDelay : Prop :=
  ∀ (i : Instr) (s t : State), exec i s = .next t →
    (s.capEn = false → t.capEn = true → (∃ x, i = .delay x) ∧ s.phase = .start ∧ t.phase = .waitAck) ∧
    (s.capEn = true → t.capEn = false → t.phase = .idle ∨ t.phase = .ready)

/-- 10_state R25: START sets OS_ARMED (where it is accepted), DELAY clears it, nothing else writes it. -/
def Obligations.OneShotWrittenOnlyByStartAndDelay : Prop :=
  ∀ (i : Instr) (s t : State), exec i s = .next t →
    (i = .start → t.osArmed = (s.osArmed || isStartable s.phase)) ∧
    ((∃ x, i = .delay x) → t.osArmed = false) ∧
    (i ≠ .start → (∀ x, i ≠ .delay x) → t.osArmed = s.osArmed)

/-- 10_state R26, R31: only an accepted START (Output, Low) and the DELAY of phase Start (Input, pull-up on) change the
line's configuration. -/
def Obligations.LineConfiguredOnlyByStartAndDelay : Prop :=
  ∀ (i : Instr) (s t : State), exec i s = .next t →
    (t.lineDir = s.lineDir ∧ t.lineLvl = s.lineLvl ∧ t.linePu = s.linePu) ∨
    (i = .start ∧ t.phase = .start ∧ t.lineDir = .output ∧ t.lineLvl = .low ∧ t.linePu = s.linePu) ∨
    ((∃ x, i = .delay x) ∧ s.phase = .start ∧ t.lineDir = .input ∧ t.linePu = true ∧ t.lineLvl = s.lineLvl)

/-- 41_capture R68, 10_state R19: every effective EDGE leaves its tick in EDGE_TS, match or not (that a mismatch writes it
too is the spec's decision D10), the DELAY of phase Start leaves its own, and nothing else writes it. -/
def Obligations.EdgeTimestampHoldsLastTick : Prop :=
  ∀ (i : Instr) (s t : State), exec i s = .next t →
    (∀ x, i = .edge x → t.edgeTs = if s.capEn = true ∧ isCapture s.phase = true then x else s.edgeTs) ∧
    (∀ x, i = .delay x → t.edgeTs = if s.osArmed = true ∧ s.phase = .start then x else s.edgeTs) ∧
    ((∀ x, i ≠ .edge x) → (∀ x, i ≠ .delay x) → t.edgeTs = s.edgeTs)

/-- 10_state R19: outside the capture phases EDGE_TS is unobservable. Two runs from states that differ only there, on the
same inputs, answer, emit, record and refuse the same at every length, and agree on EDGE_TS again once a capture phase is
reached. -/
def Obligations.DeadTimestampIsUnobservable : Prop :=
  ∀ (k : Nat) (s : State) (e : Tick), isCapture s.phase = false →
    (∀ t : State, run k s = .next t →
      ∃ e', run k { s with edgeTs := e } = .next { t with edgeTs := e' } ∧
        (isCapture t.phase = true → e' = t.edgeTs)) ∧
    (∀ r : Refusal, run k s = .refused r →
      run k { s with edgeTs := e } = .refused r)

/-- 10_state R24, R26: the block never reads CAP_EDGE, LINE_DIR, LINE_LVL or LINE_PU. Whatever they hold, an instruction
does the same to every other register and gives the same outputs. -/
def Obligations.LineAndPolarityAreNeverRead : Prop :=
  ∀ (i : Instr) (s t : State) (c : Polarity) (d : LineDir) (l : Level) (p : Bool), exec i s = .next t →
    ∃ c' d' l' p',
      exec i { s with capEdge := c, lineDir := d, lineLvl := l, linePu := p } =
        .next { t with capEdge := c', lineDir := d', lineLvl := l', linePu := p' }

/-- 60_exceptions R100: a TimingViolation is recorded exactly by an effective EDGE in Ack, WaitDataStart, WaitData or Data
whose interval is outside the phase's window, and it leaves the block in Idle with the frame discarded (how an odd
difference is halved is the spec's decision D6). -/
def Obligations.TimingViolationExactlyOutsideWindow : Prop :=
  ∀ (i : Instr) (s t : State) (p : Phase) (iv : Int), exec i s = .next t →
    (t.history = s.history ++ [.idleEntered (.timingViolation p iv)] ↔
      ∃ x, i = .edge x ∧ s.capEn = true ∧ p = s.phase ∧ iv = interval x s.edgeTs ∧
        ((p = .ack ∧ ¬ (55 ≤ iv ∧ iv ≤ 105)) ∨ (p = .waitDataStart ∧ ¬ (55 ≤ iv ∧ iv ≤ 105)) ∨
          (p = .waitData ∧ ¬ (25 ≤ iv ∧ iv ≤ 75)) ∨ (p = .data ∧ ¬ (2 ≤ iv ∧ iv ≤ 95)))) ∧
    (t.history = s.history ++ [.idleEntered (.timingViolation p iv)] → t.phase = .idle ∧ t.acc = 0 ∧ t.cnt = 0)

/-- 60_exceptions R101, R102: after either error the block is in Idle with the frame cleared, capture disabled, the
Reading as it was and no response, and a START is accepted. -/
def Obligations.ErrorsLeaveStartableIdle : Prop :=
  ∀ (i : Instr) (s t : State), exec i s = .next t →
    ((∃ p iv, t.history = s.history ++ [.idleEntered (.timingViolation p iv)]) ∨
      ∃ v, t.history = s.history ++ [.idleEntered (.checksumMismatch v)]) →
    t.phase = .idle ∧ t.acc = 0 ∧ t.cnt = 0 ∧ t.capEn = false ∧ t.rdHum = s.rdHum ∧ t.rdTSign = s.rdTSign ∧
      t.rdTMag = s.rdTMag ∧ t.resp = none ∧ ∃ u, exec .start t = .next u ∧ u.phase = .start

/-- 10_state R29 item 8, 43_trigger R93: Idle with the one-shot armed comes about only by a read in Start (decision D14);
the premise is the invariant. -/
def Obligations.StaleCallbackOnlyAfterReadInStart : Prop :=
  ∀ (i : Instr) (s t : State), Inv s → exec i s = .next t → t.phase = .idle → t.osArmed = true →
    (s.phase = .idle ∧ s.osArmed = true) ∨ (s.phase = .start ∧ (i = .readTemp ∨ i = .readHum))

/-- 60_exceptions R116: in a capture phase nothing but an EDGE or a read moves the block on, and STATUS goes on answering
Busy; the premise is the invariant. -/
def Obligations.ParkedPhaseLeftOnlyByEdgeOrRead : Prop :=
  ∀ (i : Instr) (s : State), Inv s → isCapture s.phase = true → (∀ x, i ≠ .edge x) → i ≠ .readTemp →
    i ≠ .readHum →
    ∃ t u, exec i s = .next t ∧ t = { s with resp := t.resp, acts := [] } ∧ exec .status t = .next u ∧
      u.resp = some (.status 1)

/-- 70_reset_and_hazards R131: an instruction that completes an acquisition leaves Ready if and only if it recorded
`FramePublished`, and only an EDGE or a read completes one (decision D34). A reset input is no instruction, so nothing is
said of it (log 15). -/
def Obligations.AcquisitionSucceedsExactlyOnPublication : Prop :=
  ∀ (i : Instr) (s t : State), exec i s = .next t → CompletesAcquisition s t →
    (t.phase = .ready ↔ RecordsPublication s t) ∧
      ((∃ x, i = .edge x) ∨ ((i = .readTemp ∨ i = .readHum) ∧ t.phase = .idle))

/-- A whole acquisition (95_test_vectors T1, T2; 60_exceptions R118 names its premises): from any startable state that
meets the invariants, START, the callback and the 83 edges of a valid frame, at any timing inside the windows and any
start tick, end in Ready with that frame's Reading (decisions D6, D7, D11 enter through the windows and Ready, D17 through
the raw fields the Reading holds; that the inputs stand in `pending` is the model's choice, log 1). -/
def Obligations.ValidFrameIsReceived : Prop :=
  ∀ (s : State) (v : Frame) (f : FrameTiming) (t0 : Tick) (rest : List Input), Inv s →
    s.phase = .idle ∨ s.phase = .ready → f.Carries v → s.pending = acquisitionInputs t0 f ++ rest →
    frameValid v = true →
    ∃ t : State, run 85 s = .next t ∧ t.phase = .ready ∧ t.rdHum = v.extractLsb' 24 16 ∧
      t.rdTSign = v.extractLsb' 23 1 ∧ t.rdTMag = v.extractLsb' 8 15 ∧ t.pending = rest ∧
      t.history = s.history ++ [.framePublished (v.extractLsb' 24 16) (v.extractLsb' 8 16)]

/-- The same acquisition with a wrong checksum (95_test_vectors T4): it ends in Idle and the Reading is the one before
(decisions D6, D7 enter through the windows; that the inputs stand in `pending` is the model's choice, log 1). -/
def Obligations.InvalidFrameLeavesReading : Prop :=
  ∀ (s : State) (v : Frame) (f : FrameTiming) (t0 : Tick) (rest : List Input), Inv s →
    s.phase = .idle ∨ s.phase = .ready → f.Carries v → s.pending = acquisitionInputs t0 f ++ rest →
    frameValid v = false →
    ∃ t : State, run 85 s = .next t ∧ t.phase = .idle ∧ t.rdHum = s.rdHum ∧ t.rdTSign = s.rdTSign ∧
      t.rdTMag = s.rdTMag ∧ t.pending = rest ∧ t.history = s.history ++ [.idleEntered (.checksumMismatch v)]
end

