-- ==== Sys2Proof/Laws/Classifier.lean ====
section
/-! SUPPORT. What the interval and the classifier compute, in integer arithmetic. -/

namespace Sys2Proof

theorem sint16_eq_toInt (u : BitVec 16) : sint16 u = u.toInt := by
  have := u.isLt
  simp only [sint16, BitVec.toInt]
  split <;> split <;> omega

theorem sint16_range (u : BitVec 16) : -32768 ≤ sint16 u ∧ sint16 u ≤ 32767 := by
  have := u.isLt
  simp only [sint16]
  split <;> omega

namespace Machine

@[simp] theorem inWin_iff (i n : Int) : inWin i n = true ↔ n - 25 ≤ i ∧ i ≤ n + 25 := by
  simp only [inWin, Bool.and_eq_true, decide_eq_true_eq]
  rfl

/-! One lemma per phase that tests a window. -/

theorem inWin_ack (i : Int) : inWin i Config.nomAck = true ↔ 55 ≤ i ∧ i ≤ 105 := by
  rw [inWin_iff]
  simp only [Config.nomAck]
  omega

theorem inWin_gap (i : Int) : inWin i Config.nomGap = true ↔ 25 ≤ i ∧ i ≤ 75 := by
  rw [inWin_iff]
  simp only [Config.nomGap]
  omega

theorem classify_ack (i : Int) : classify .ack i = if 55 ≤ i ∧ i ≤ 105 then .matchesAck else .noMatch := by
  simp only [classify, inWin_ack]

theorem classify_waitDataStart (i : Int) :
    classify .waitDataStart i = if 55 ≤ i ∧ i ≤ 105 then .matchesAck else .noMatch := by
  simp only [classify, inWin_ack]

theorem classify_waitData (i : Int) :
    classify .waitData i = if 25 ≤ i ∧ i ≤ 75 then .matchesStartGap else .noMatch := by
  simp only [classify, inWin_gap]

/-- In Data: short, else long, else nothing (40_classifier R62). -/
theorem classify_data (i : Int) :
    classify .data i =
      if 2 ≤ i ∧ i ≤ 52 then .matchesShort else if 53 ≤ i ∧ i ≤ 95 then .matchesLong else .noMatch := by
  have hs : inWin i Config.nomShort = true ↔ 2 ≤ i ∧ i ≤ 52 := by
    rw [inWin_iff]; simp only [Config.nomShort]; omega
  have hl : inWin i Config.nomLong = true ↔ 45 ≤ i ∧ i ≤ 95 := by
    rw [inWin_iff]; simp only [Config.nomLong]; omega
  simp only [classify, hs, hl]
  split
  · rfl
  · split <;> split <;> first | rfl | omega

theorem interval_eq (cur prev : Tick) : interval cur prev = (cur - prev).toInt.tdiv 2 := by
  rw [interval, halve, sint16_eq_toInt]

/-- An interval lies in [−16384, 16383] (40_classifier R60). -/
theorem interval_range (cur prev : Tick) : -16384 ≤ interval cur prev ∧ interval cur prev ≤ 16383 := by
  have h := sint16_range (cur - prev)
  have h1 := Int.tmod_add_mul_tdiv (sint16 (cur - prev)) 2
  have h2 := Int.tmod_lt_of_pos (sint16 (cur - prev)) (b := 2) (by omega)
  have h3 := Int.lt_tmod_of_pos (sint16 (cur - prev)) (b := 2) (by omega)
  have h4 : 0 ≤ sint16 (cur - prev) → 0 ≤ (sint16 (cur - prev)).tmod 2 := Int.tmod_nonneg 2
  simp only [interval, halve]
  omega

/-- The interval over a gap of fewer than 2^15 ticks is half of it. -/
theorem interval_add_ofNat (prev : Tick) {d : Nat} (h : d < 32768) :
    interval (prev + BitVec.ofNat 16 d) prev = ((d / 2 : Nat) : Int) := by
  have : prev + BitVec.ofNat 16 d - prev = BitVec.ofNat 16 d := by
    rw [BitVec.add_comm, BitVec.add_sub_cancel]
  rw [interval, this, halve, sint16]
  have hd : (BitVec.ofNat 16 d).toNat = d := by
    simp only [BitVec.toNat_ofNat]
    omega
  rw [hd, if_pos (by omega)]
  rfl

end Machine

end Sys2Proof
end

