-- ==== Sys2Proof/Laws/Decode.lean ====
section
/-! SUPPORT. The fields of a word in arithmetic, and the fields of an encoded instruction. -/

namespace Sys2Proof

/-- `{x, y}` as a number (00_scope R11). -/
theorem append_toNat {n m : Nat} (x : BitVec n) (y : BitVec m) : (x ++ y).toNat = x.toNat * 2 ^ m + y.toNat := by
  rw [BitVec.toNat_append, ← Nat.shiftLeft_add_eq_or_of_lt y.isLt, Nat.shiftLeft_eq]

theorem opField_toNat (w : Word) : (opField w).toNat = w.toNat / 2 ^ 20 := by
  have := w.isLt
  simp only [opField, BitVec.extractLsb'_toNat, Nat.shiftRight_eq_div_pow]
  omega

theorem rsvField_toNat (w : Word) : (rsvField w).toNat = w.toNat / 2 ^ 19 % 2 := by
  simp only [rsvField, BitVec.extractLsb'_toNat, Nat.shiftRight_eq_div_pow]

theorem phField_toNat (w : Word) : (phField w).toNat = w.toNat / 2 ^ 16 % 8 := by
  simp only [phField, BitVec.extractLsb'_toNat, Nat.shiftRight_eq_div_pow]

theorem plField_toNat (w : Word) : (plField w).toNat = w.toNat % 2 ^ 16 := by
  simp only [plField, BitVec.extractLsb'_toNat, Nat.shiftRight_zero]

@[simp] theorem Phase.ofCode_code (p : Phase) : Phase.ofCode p.code = p := by
  cases p <;> rfl

@[simp] theorem Phase.code_ofCode (c : BitVec 3) : (Phase.ofCode c).code = c := by
  revert c
  decide

/-- An encoded word's value: its four fields side by side (30_encoding R46). -/
theorem encode_toNat (i : Instr) :
    (encode i).toNat = i.opcode.toNat * 2 ^ 20 + i.phBits.toNat * 2 ^ 16 + i.plBits.toNat := by
  simp only [encode, append_toNat, BitVec.toNat_ofNat]
  omega

@[simp] theorem opField_encode (i : Instr) : opField (encode i) = i.opcode := by
  apply BitVec.eq_of_toNat_eq
  have h1 := i.phBits.isLt
  have h2 := i.plBits.isLt
  rw [opField_toNat, encode_toNat]
  omega

@[simp] theorem rsvField_encode (i : Instr) : rsvField (encode i) = 0 := by
  apply BitVec.eq_of_toNat_eq
  have h1 := i.phBits.isLt
  have h2 := i.plBits.isLt
  rw [rsvField_toNat, encode_toNat]
  simp only [BitVec.ofNat_eq_ofNat, BitVec.toNat_ofNat]
  omega

@[simp] theorem phField_encode (i : Instr) : phField (encode i) = i.phBits := by
  apply BitVec.eq_of_toNat_eq
  have h1 := i.phBits.isLt
  have h2 := i.plBits.isLt
  rw [phField_toNat, encode_toNat]
  omega

@[simp] theorem plField_encode (i : Instr) : plField (encode i) = i.plBits := by
  apply BitVec.eq_of_toNat_eq
  have h2 := i.plBits.isLt
  rw [plField_toNat, encode_toNat]
  omega

/-- A word is its four fields (30_encoding R46). -/
theorem word_eq_fields (w : Word) : opField w ++ (rsvField w ++ (phField w ++ plField w)) = w := by
  apply BitVec.eq_of_toNat_eq
  simp only [append_toNat, opField_toNat, rsvField_toNat, phField_toNat, plField_toNat]
  omega

/-! ## The decoder -/

/-- A decoded word breaks none of 30_encoding R49's conditions, and its operation is the one its opcode selects. -/
theorem decode_eq_ok_iff (w : Word) (i : Instr) :
    decode w = .ok i ↔ rejectReason w = none ∧ selectOp w = some i := by
  unfold decode
  split
  · simp_all
  · split <;> simp_all

/-- The four conditions of 30_encoding R49, as the decoder tests them. -/
theorem rejectReason_eq_none_iff (w : Word) :
    rejectReason w = none ↔
      (1 ≤ (opField w).toNat ∧ (opField w).toNat ≤ 7) ∧ rsvField w = 0 ∧
        ((opField w).toNat ≤ 6 → phField w = 0) ∧ ((opField w).toNat ≤ 4 → plField w = 0) := by
  unfold rejectReason
  split
  · simp; tauto
  split
  · simp; tauto
  split
  · simp; tauto
  split
  · simp; tauto
  simp; tauto

end Sys2Proof
end

