-- ==== Sys2Proof/Laws/State.lean ====
section
/-! SUPPORT. One lemma per field of State for each of the four output updates of Machine/Ops.lean, so that no proof
unfolds a record update. -/

namespace Sys2Proof.Machine

variable (s : State)

/-! ## clearOutputs -/

@[simp] theorem State.clearOutputs_phase : (s.clearOutputs).phase = s.phase := rfl
@[simp] theorem State.clearOutputs_edgeTs : (s.clearOutputs).edgeTs = s.edgeTs := rfl
@[simp] theorem State.clearOutputs_acc : (s.clearOutputs).acc = s.acc := rfl
@[simp] theorem State.clearOutputs_cnt : (s.clearOutputs).cnt = s.cnt := rfl
@[simp] theorem State.clearOutputs_rdHum : (s.clearOutputs).rdHum = s.rdHum := rfl
@[simp] theorem State.clearOutputs_rdTSign : (s.clearOutputs).rdTSign = s.rdTSign := rfl
@[simp] theorem State.clearOutputs_rdTMag : (s.clearOutputs).rdTMag = s.rdTMag := rfl
@[simp] theorem State.clearOutputs_capEn : (s.clearOutputs).capEn = s.capEn := rfl
@[simp] theorem State.clearOutputs_capEdge : (s.clearOutputs).capEdge = s.capEdge := rfl
@[simp] theorem State.clearOutputs_osArmed : (s.clearOutputs).osArmed = s.osArmed := rfl
@[simp] theorem State.clearOutputs_lineDir : (s.clearOutputs).lineDir = s.lineDir := rfl
@[simp] theorem State.clearOutputs_lineLvl : (s.clearOutputs).lineLvl = s.lineLvl := rfl
@[simp] theorem State.clearOutputs_linePu : (s.clearOutputs).linePu = s.linePu := rfl
@[simp] theorem State.clearOutputs_resp : (s.clearOutputs).resp = none := rfl
@[simp] theorem State.clearOutputs_acts : (s.clearOutputs).acts = [] := rfl
@[simp] theorem State.clearOutputs_history : (s.clearOutputs).history = s.history := rfl
@[simp] theorem State.clearOutputs_resets : (s.clearOutputs).resets = s.resets := rfl
@[simp] theorem State.clearOutputs_pending : (s.clearOutputs).pending = s.pending := rfl

/-! ## respond -/

@[simp] theorem State.respond_phase (r : Response) : (s.respond r).phase = s.phase := rfl
@[simp] theorem State.respond_edgeTs (r : Response) : (s.respond r).edgeTs = s.edgeTs := rfl
@[simp] theorem State.respond_acc (r : Response) : (s.respond r).acc = s.acc := rfl
@[simp] theorem State.respond_cnt (r : Response) : (s.respond r).cnt = s.cnt := rfl
@[simp] theorem State.respond_rdHum (r : Response) : (s.respond r).rdHum = s.rdHum := rfl
@[simp] theorem State.respond_rdTSign (r : Response) : (s.respond r).rdTSign = s.rdTSign := rfl
@[simp] theorem State.respond_rdTMag (r : Response) : (s.respond r).rdTMag = s.rdTMag := rfl
@[simp] theorem State.respond_capEn (r : Response) : (s.respond r).capEn = s.capEn := rfl
@[simp] theorem State.respond_capEdge (r : Response) : (s.respond r).capEdge = s.capEdge := rfl
@[simp] theorem State.respond_osArmed (r : Response) : (s.respond r).osArmed = s.osArmed := rfl
@[simp] theorem State.respond_lineDir (r : Response) : (s.respond r).lineDir = s.lineDir := rfl
@[simp] theorem State.respond_lineLvl (r : Response) : (s.respond r).lineLvl = s.lineLvl := rfl
@[simp] theorem State.respond_linePu (r : Response) : (s.respond r).linePu = s.linePu := rfl
@[simp] theorem State.respond_resp (r : Response) : (s.respond r).resp = some r := rfl
@[simp] theorem State.respond_acts (r : Response) : (s.respond r).acts = s.acts := rfl
@[simp] theorem State.respond_history (r : Response) : (s.respond r).history = s.history := rfl
@[simp] theorem State.respond_resets (r : Response) : (s.respond r).resets = s.resets := rfl
@[simp] theorem State.respond_pending (r : Response) : (s.respond r).pending = s.pending := rfl

/-! ## emit -/

@[simp] theorem State.emit_phase (a : Action) : (s.emit a).phase = s.phase := rfl
@[simp] theorem State.emit_edgeTs (a : Action) : (s.emit a).edgeTs = s.edgeTs := rfl
@[simp] theorem State.emit_acc (a : Action) : (s.emit a).acc = s.acc := rfl
@[simp] theorem State.emit_cnt (a : Action) : (s.emit a).cnt = s.cnt := rfl
@[simp] theorem State.emit_rdHum (a : Action) : (s.emit a).rdHum = s.rdHum := rfl
@[simp] theorem State.emit_rdTSign (a : Action) : (s.emit a).rdTSign = s.rdTSign := rfl
@[simp] theorem State.emit_rdTMag (a : Action) : (s.emit a).rdTMag = s.rdTMag := rfl
@[simp] theorem State.emit_capEn (a : Action) : (s.emit a).capEn = s.capEn := rfl
@[simp] theorem State.emit_capEdge (a : Action) : (s.emit a).capEdge = s.capEdge := rfl
@[simp] theorem State.emit_osArmed (a : Action) : (s.emit a).osArmed = s.osArmed := rfl
@[simp] theorem State.emit_lineDir (a : Action) : (s.emit a).lineDir = s.lineDir := rfl
@[simp] theorem State.emit_lineLvl (a : Action) : (s.emit a).lineLvl = s.lineLvl := rfl
@[simp] theorem State.emit_linePu (a : Action) : (s.emit a).linePu = s.linePu := rfl
@[simp] theorem State.emit_resp (a : Action) : (s.emit a).resp = s.resp := rfl
@[simp] theorem State.emit_acts (a : Action) : (s.emit a).acts = s.acts ++ [a] := rfl
@[simp] theorem State.emit_history (a : Action) : (s.emit a).history = s.history := rfl
@[simp] theorem State.emit_resets (a : Action) : (s.emit a).resets = s.resets := rfl
@[simp] theorem State.emit_pending (a : Action) : (s.emit a).pending = s.pending := rfl

/-! ## record -/

@[simp] theorem State.record_phase (e : Event) : (s.record e).phase = s.phase := rfl
@[simp] theorem State.record_edgeTs (e : Event) : (s.record e).edgeTs = s.edgeTs := rfl
@[simp] theorem State.record_acc (e : Event) : (s.record e).acc = s.acc := rfl
@[simp] theorem State.record_cnt (e : Event) : (s.record e).cnt = s.cnt := rfl
@[simp] theorem State.record_rdHum (e : Event) : (s.record e).rdHum = s.rdHum := rfl
@[simp] theorem State.record_rdTSign (e : Event) : (s.record e).rdTSign = s.rdTSign := rfl
@[simp] theorem State.record_rdTMag (e : Event) : (s.record e).rdTMag = s.rdTMag := rfl
@[simp] theorem State.record_capEn (e : Event) : (s.record e).capEn = s.capEn := rfl
@[simp] theorem State.record_capEdge (e : Event) : (s.record e).capEdge = s.capEdge := rfl
@[simp] theorem State.record_osArmed (e : Event) : (s.record e).osArmed = s.osArmed := rfl
@[simp] theorem State.record_lineDir (e : Event) : (s.record e).lineDir = s.lineDir := rfl
@[simp] theorem State.record_lineLvl (e : Event) : (s.record e).lineLvl = s.lineLvl := rfl
@[simp] theorem State.record_linePu (e : Event) : (s.record e).linePu = s.linePu := rfl
@[simp] theorem State.record_resp (e : Event) : (s.record e).resp = s.resp := rfl
@[simp] theorem State.record_acts (e : Event) : (s.record e).acts = s.acts := rfl
@[simp] theorem State.record_history (e : Event) : (s.record e).history = s.history ++ [e] := rfl
@[simp] theorem State.record_resets (e : Event) : (s.record e).resets = s.resets := rfl
@[simp] theorem State.record_pending (e : Event) : (s.record e).pending = s.pending := rfl

end Sys2Proof.Machine
end

