-- ==== Sys2Proof/Laws/Ops.lean ====
section
/-! SUPPORT. One lemma per shared operation of Machine/Ops.lean: everything it does to the state, which later proofs cite
instead of unfolding it. -/

namespace Sys2Proof.Machine

variable (s : State)

theorem State.clearOutputs_eq : s.clearOutputs = { s with resp := none, acts := [] } := rfl

@[simp] theorem State.clearOutputs_clearOutputs : s.clearOutputs.clearOutputs = s.clearOutputs := rfl

theorem State.respond_eq (r : Response) : s.respond r = { s with resp := some r } := rfl

/-- IdleEntry (41_capture R74): everything it writes. -/
theorem idleEntry_eq (c : IdleCause) :
    idleEntry c s = { s with
      phase := .idle, acc := 0, cnt := 0, capEn := false, acts := s.acts ++ [.disableCapture]
      history := s.history ++ [.idleEntered c] } := rfl

theorem advance_eq (p : Phase) (pol : Polarity) :
    advance p pol s = { s with phase := p, capEdge := pol, acts := s.acts ++ [.setCapturePolarity pol] } := rfl

/-- AppendBit (42_frame R78) in arithmetic: ACC becomes 2·ACC + b mod 2^40. -/
theorem appendBit_eq (b : BitVec 1) :
    appendBit b s = { s with acc := BitVec.ofNat 40 (2 * s.acc.toNat + b.toNat), cnt := s.cnt + 1 } := by
  have hb : b = 0#1 ∨ b = 1#1 := by
    have := b.isLt
    rcases Nat.lt_or_ge b.toNat 1 with h | h
    · exact .inl (BitVec.eq_of_toNat_eq (by simp; omega))
    · exact .inr (BitVec.eq_of_toNat_eq (by simp; omega))
  have key : (s.acc <<< 1) ||| b.setWidth 40 = BitVec.ofNat 40 (2 * s.acc.toNat + b.toNat) := by
    rcases hb with rfl | rfl
    · apply BitVec.eq_of_toNat_eq
      simp [Nat.shiftLeft_eq, Nat.mul_comm]
    · have h : (s.acc <<< 1) ||| (1#1 : BitVec 1).setWidth 40 = (s.acc <<< 1) + 1#40 := by
        have h1 : (1#1 : BitVec 1).setWidth 40 = 1#40 := rfl
        rw [h1, BitVec.add_eq_or_of_and_eq_zero]
        ext i hi
        simp
        omega
      rw [h]
      apply BitVec.eq_of_toNat_eq
      simp [BitVec.toNat_add, Nat.shiftLeft_eq, Nat.mul_comm]
  rw [appendBit, key]

/-- The published Reading in ACC's bits (42_frame R83). -/
theorem publishFrame_eq :
    publishFrame s = { s with
      rdHum := frameHumidity s.acc, rdTSign := frameTSign s.acc, rdTMag := frameTMag s.acc, phase := .ready
      acc := 0, cnt := 0, capEn := false, acts := s.acts ++ [.disableCapture]
      history := s.history ++ [.framePublished (frameHumidity s.acc) (frameTemperature s.acc)] } := rfl

theorem completeFrame_of_valid (h : frameValid s.acc = true) : completeFrame s = publishFrame s := by
  simp [completeFrame, h]

theorem completeFrame_of_invalid (h : frameValid s.acc = false) :
    completeFrame s = idleEntry (.checksumMismatch s.acc) s := by
  simp [completeFrame, h]

/-- Before the 40th bit an accepted bit only goes back to WaitData. -/
theorem acceptBit_of_lt (b : BitVec 1) (h : s.cnt.toNat ≠ 39) :
    acceptBit b s = advance .waitData .positive (appendBit b s) := by
  have : (s.cnt + 1).toNat ≠ Config.frameBits := by
    have := s.cnt.isLt
    simp only [Config.frameBits, BitVec.toNat_add, BitVec.ofNat_eq_ofNat, BitVec.toNat_ofNat]
    omega
  simp only [acceptBit, advance_eq, appendBit_eq]
  rw [if_neg this]

/-- The 40th bit completes the frame. -/
theorem acceptBit_fortieth (b : BitVec 1) (h : s.cnt.toNat = 39) :
    acceptBit b s = completeFrame (advance .waitData .positive (appendBit b s)) := by
  have : (s.cnt + 1).toNat = Config.frameBits := by
    simp only [Config.frameBits, BitVec.toNat_add, BitVec.ofNat_eq_ofNat, BitVec.toNat_ofNat]
    omega
  simp only [acceptBit, advance_eq, appendBit_eq]
  rw [if_pos this]

/-- Everything an accepted bit can do: go on, publish, or abort on the checksum. -/
theorem acceptBit_cases (b : BitVec 1) :
    (s.cnt.toNat ≠ 39 ∧ acceptBit b s = advance .waitData .positive (appendBit b s)) ∨
      (s.cnt.toNat = 39 ∧ frameValid (appendBit b s).acc = true ∧
        acceptBit b s = publishFrame (advance .waitData .positive (appendBit b s))) ∨
      (s.cnt.toNat = 39 ∧ frameValid (appendBit b s).acc = false ∧
        acceptBit b s =
          idleEntry (.checksumMismatch (appendBit b s).acc) (advance .waitData .positive (appendBit b s))) := by
  by_cases h : s.cnt.toNat = 39
  · right
    rw [acceptBit_fortieth s b h]
    cases hv : frameValid (appendBit b s).acc with
    | true => exact .inl ⟨h, rfl, completeFrame_of_valid _ hv⟩
    | false => exact .inr ⟨h, rfl, completeFrame_of_invalid _ hv⟩
  · exact .inl ⟨h, acceptBit_of_lt s b h⟩

/-! ## The frame's fields as bit ranges (42_frame R80) -/

theorem frameHumidity_eq (v : Frame) : frameHumidity v = v.extractLsb' 24 16 :=
  BitVec.extractLsb'_append_extractLsb'_eq_extractLsb' rfl

theorem frameTemperature_eq (v : Frame) : frameTemperature v = v.extractLsb' 8 16 :=
  BitVec.extractLsb'_append_extractLsb'_eq_extractLsb' rfl

theorem frameTSign_eq (v : Frame) : frameTSign v = v.extractLsb' 23 1 := by
  apply BitVec.eq_of_toNat_eq
  simp only [frameTSign, frameTH, BitVec.extractLsb'_toNat, Nat.shiftRight_eq_div_pow]
  omega

theorem frameTMag_eq (v : Frame) : frameTMag v = v.extractLsb' 8 15 := by
  have h : (frameTH v).extractLsb' 0 7 = v.extractLsb' 16 7 := by
    apply BitVec.eq_of_toNat_eq
    simp only [frameTH, BitVec.extractLsb'_toNat, Nat.shiftRight_eq_div_pow]
    omega
  rw [frameTMag, h]
  exact BitVec.extractLsb'_append_extractLsb'_eq_extractLsb' rfl

/-! ## Inputs -/

theorem takeInput_nil (h : s.pending = []) : takeInput s = none := by
  simp [takeInput, h]

theorem takeInput_cons {i : Input} {rest : List Input} (h : s.pending = i :: rest) :
    takeInput s = some (i, { s with pending := rest }) := by
  simp [takeInput, h]

end Sys2Proof.Machine
end

