-- ==== Sys2Proof/Laws/Exec.lean ====
section
/-! SUPPORT. What each meaning can do, said once. -/

namespace Sys2Proof.Machine

theorem isStartable_iff (p : Phase) : isStartable p = true ↔ p = .idle ∨ p = .ready := by
  simp [isStartable]

theorem beginAcquisition_eq (s : State) :
    beginAcquisition s = { s with
      phase := .start, lineDir := .output, lineLvl := .low, osArmed := true
      acts := s.acts ++ [.setLineDirection .output] ++ [.setLineLevel .low] ++
        [.scheduleOneShot Config.startDelayTicks] } := rfl

theorem disarmOneShot_eq (s : State) :
    disarmOneShot s = { s with osArmed := false, acts := s.acts ++ [.cancelOneShot] } := rfl

theorem beginCapture_eq (t : Tick) (s : State) :
    beginCapture t s = { s with
      phase := .waitAck, lineDir := .input, linePu := true, capEdge := .negative, edgeTs := t, capEn := true
      osArmed := false
      acts := s.acts ++ [.setLineDirection .input] ++ [.setPullUp true] ++ [.enableCapture .negative] ++
        [.cancelOneShot] } := rfl

/-! ## EDGE -/

/-- An interval that a phase accepts, with the phase it goes on to and the polarity it flips to (41_capture R69 to R72;
the rows that append no bit). -/
inductive Forward : Phase → Int → Phase → Polarity → Prop
  | waitAck (i : Int) : Forward .waitAck i .ack .positive
  | ack (i : Int) (h : 55 ≤ i ∧ i ≤ 105) : Forward .ack i .waitDataStart .negative
  | waitDataStart (i : Int) (h : 55 ≤ i ∧ i ≤ 105) : Forward .waitDataStart i .waitData .positive
  | waitData (i : Int) (h : 25 ≤ i ∧ i ≤ 75) : Forward .waitData i .data .negative

/-- An interval outside the window of its phase (60_exceptions R100). -/
inductive Violates : Phase → Int → Prop
  | ack (i : Int) (h : ¬ (55 ≤ i ∧ i ≤ 105)) : Violates .ack i
  | waitDataStart (i : Int) (h : ¬ (55 ≤ i ∧ i ≤ 105)) : Violates .waitDataStart i
  | waitData (i : Int) (h : ¬ (25 ≤ i ∧ i ≤ 75)) : Violates .waitData i
  | data (i : Int) (h : ¬ (2 ≤ i ∧ i ≤ 95)) : Violates .data i

/-- The bit an interval in Data is read as (40_classifier R62). -/
inductive ReadsBit : Int → Nat → Prop
  | zero (i : Int) (h : 2 ≤ i ∧ i ≤ 52) : ReadsBit i 0
  | one (i : Int) (h : 53 ≤ i ∧ i ≤ 95) : ReadsBit i 1

/-- ACC with one more bit: 2·ACC + b mod 2^40 (42_frame R78). -/
def nextAcc (s : State) (b : Nat) : Frame := BitVec.ofNat 40 (2 * s.acc.toNat + b)

/-- Everything an EDGE can do to the state: one constructor per outcome, with the whole next state. -/
inductive EdgeOutcome (t : Tick) (s : State) : State → Prop
  /-- 41_capture R67. -/
  | noEffect (h : ¬ (s.capEn = true ∧ isCapture s.phase = true)) : EdgeOutcome t s s
  /-- 41_capture R69 to R72, accepted. -/
  | forward (q : Phase) (pol : Polarity) (he : s.capEn = true) (h : Forward s.phase (interval t s.edgeTs) q pol) :
      EdgeOutcome t s { s with
        phase := q, capEdge := pol, edgeTs := t, acts := s.acts ++ [.setCapturePolarity pol] }
  /-- 41_capture R70 to R73, a mismatch. -/
  | violation (he : s.capEn = true) (h : Violates s.phase (interval t s.edgeTs)) :
      EdgeOutcome t s { s with
        phase := .idle, acc := 0, cnt := 0, capEn := false, edgeTs := t, acts := s.acts ++ [.disableCapture]
        history := s.history ++ [.idleEntered (.timingViolation s.phase (interval t s.edgeTs))] }
  /-- 41_capture R73, a bit before the 40th. -/
  | bit (b : Nat) (he : s.capEn = true) (hp : s.phase = .data) (h : ReadsBit (interval t s.edgeTs) b)
      (hc : s.cnt.toNat ≠ 39) :
      EdgeOutcome t s { s with
        phase := .waitData, capEdge := .positive, edgeTs := t, acc := nextAcc s b, cnt := s.cnt + 1
        acts := s.acts ++ [.setCapturePolarity .positive] }
  /-- 42_frame R83, the 40th bit of a valid frame. -/
  | publish (b : Nat) (he : s.capEn = true) (hp : s.phase = .data) (h : ReadsBit (interval t s.edgeTs) b)
      (hc : s.cnt.toNat = 39) (hv : frameValid (nextAcc s b) = true) :
      EdgeOutcome t s { s with
        phase := .ready, capEdge := .positive, edgeTs := t, acc := 0, cnt := 0, capEn := false
        rdHum := frameHumidity (nextAcc s b), rdTSign := frameTSign (nextAcc s b), rdTMag := frameTMag (nextAcc s b)
        acts := s.acts ++ [.setCapturePolarity .positive] ++ [.disableCapture]
        history := s.history ++
          [.framePublished (frameHumidity (nextAcc s b)) (frameTemperature (nextAcc s b))] }
  /-- 42_frame R82, the 40th bit of an invalid frame. -/
  | mismatch (b : Nat) (he : s.capEn = true) (hp : s.phase = .data) (h : ReadsBit (interval t s.edgeTs) b)
      (hc : s.cnt.toNat = 39) (hv : frameValid (nextAcc s b) = false) :
      EdgeOutcome t s { s with
        phase := .idle, capEdge := .positive, edgeTs := t, acc := 0, cnt := 0, capEn := false
        acts := s.acts ++ [.setCapturePolarity .positive] ++ [.disableCapture]
        history := s.history ++ [.idleEntered (.checksumMismatch (nextAcc s b))] }

/-- An accepted bit, as an outcome of the EDGE that brought it. -/
theorem acceptBit_outcome (t : Tick) (s : State) (b : BitVec 1) (he : s.capEn = true) (hp : s.phase = .data)
    (h : ReadsBit (interval t s.edgeTs) b.toNat) : EdgeOutcome t s (acceptBit b { s with edgeTs := t }) := by
  have hacc : (appendBit b { s with edgeTs := t }).acc = nextAcc s b.toNat := by rw [appendBit_eq]; rfl
  rcases acceptBit_cases { s with edgeTs := t } b with ⟨hc, e⟩ | ⟨hc, hv, e⟩ | ⟨hc, hv, e⟩
  · rw [e, advance_eq, appendBit_eq]
    exact .bit b.toNat he hp h hc
  · rw [hacc] at hv
    rw [e, publishFrame_eq, advance_eq, appendBit_eq]
    exact .publish b.toNat he hp h hc hv
  · rw [hacc] at hv
    rw [e, hacc, idleEntry_eq, advance_eq, appendBit_eq]
    exact .mismatch b.toNat he hp h hc hv

/-- An EDGE has one of the listed outcomes, and no other. -/
theorem edgeEffect_outcome (t : Tick) (s : State) : EdgeOutcome t s (edgeEffect t s) := by
  unfold edgeEffect
  split
  case isFalse h => exact .noEffect h
  case isTrue h =>
    obtain ⟨he, hc⟩ := h
    generalize hi : interval t s.edgeTs = i
    have fwd : ∀ q pol, Forward s.phase i q pol → EdgeOutcome t s (advance q pol { s with edgeTs := t }) :=
      fun q pol hf => .forward q pol he (hi ▸ hf)
    have bad : ∀ p, s.phase = p → Violates p i →
        EdgeOutcome t s (idleEntry (.timingViolation p i) { s with edgeTs := t }) := by
      rintro p rfl hv
      subst hi
      exact .violation he hv
    have bits : ∀ b : BitVec 1, s.phase = .data → ReadsBit i b.toNat →
        EdgeOutcome t s (acceptBit b { s with edgeTs := t }) :=
      fun b hp hr => acceptBit_outcome t s b he hp (hi ▸ hr)
    have hu : ({ s with edgeTs := t } : State).phase = s.phase := rfl
    generalize ({ s with edgeTs := t } : State) = u at *
    unfold edgeRow
    rw [hu]
    cases hp : s.phase with
    | idle => rw [hp] at hc; cases hc
    | start => rw [hp] at hc; cases hc
    | ready => rw [hp] at hc; cases hc
    | waitAck => exact fwd _ _ (hp ▸ .waitAck i)
    | ack =>
      by_cases hw : 55 ≤ i ∧ i ≤ 105
      · simpa [classify_ack, hw] using fwd _ _ (hp ▸ .ack i hw)
      · simpa [classify_ack, if_neg hw] using bad _ hp (.ack i hw)
    | waitDataStart =>
      by_cases hw : 55 ≤ i ∧ i ≤ 105
      · simpa [classify_waitDataStart, hw] using fwd _ _ (hp ▸ .waitDataStart i hw)
      · simpa [classify_waitDataStart, if_neg hw] using bad _ hp (.waitDataStart i hw)
    | waitData =>
      by_cases hw : 25 ≤ i ∧ i ≤ 75
      · simpa [classify_waitData, hw] using fwd _ _ (hp ▸ .waitData i hw)
      · simpa [classify_waitData, if_neg hw] using bad _ hp (.waitData i hw)
    | data =>
      by_cases hs : 2 ≤ i ∧ i ≤ 52
      · simpa [classify_data, if_pos hs] using bits 0 hp (.zero i hs)
      · by_cases hl : 53 ≤ i ∧ i ≤ 95
        · simpa [classify_data, if_neg hs, if_pos hl] using bits 1 hp (.one i hl)
        · simpa [classify_data, if_neg hs, if_neg hl] using bad _ hp (.data i (by omega))

/-! ## Every instruction -/

/-- What `exec` can answer: each instruction's next state, in terms of the shared operations. -/
theorem exec_next_cases {i : Instr} {s t : State} (h : exec i s = .next t) :
    (i = .start ∧ isStartable s.phase = true ∧ t = beginAcquisition s.clearOutputs) ∨
    (i = .start ∧ isStartable s.phase = false ∧ t = s.clearOutputs) ∨
    (i = .status ∧ t = s.clearOutputs.respond (.status (statusOf s.phase).code)) ∨
    (i = .readTemp ∧ t = idleEntry (.consumed s.phase) (s.clearOutputs.respond (temperatureResponse s))) ∨
    (i = .readHum ∧ t = idleEntry (.consumed s.phase) (s.clearOutputs.respond (humidityResponse s))) ∨
    (∃ x, i = .delay x ∧ s.osArmed = false ∧ t = s.clearOutputs) ∨
    (∃ x, i = .delay x ∧ s.osArmed = true ∧ s.phase = .start ∧ t = beginCapture x s.clearOutputs) ∨
    (∃ x, i = .delay x ∧ s.osArmed = true ∧ s.phase ≠ .start ∧ t = disarmOneShot s.clearOutputs) ∨
    (∃ x, i = .edge x ∧ EdgeOutcome x s.clearOutputs t) ∨
    (∃ p iv, i = .classify p iv ∧ t = s.clearOutputs.respond (.classification (classify p iv).code)) := by
  cases i with
  | start =>
    simp only [exec, execStart] at h
    split at h <;> cases h <;> simp_all
  | status => cases h; simp
  | readTemp => cases h; simp
  | readHum => cases h; simp
  | delay x =>
    simp only [exec, execDelay] at h
    split at h
    · cases h; simp_all
    · split at h <;> cases h <;> simp_all
  | edge x =>
    cases h
    simp [edgeEffect_outcome]
  | classify p iv => cases h; simp

end Sys2Proof.Machine
end

