-- ==== Sys2Proof/Laws/PerInstr.lean ====
section
/-! SUPPORT. Per instruction: the fixed bits of its word are those of its row in spec/opcode_table.json (30_encoding
R48: the bits under the mask, from bit 23 down to `fixedLow`, hold the match value's). -/

namespace Sys2Proof.Laws.TableRow

/-- The lowest fixed bit of the instruction's row (`lo` of the row's `fixed`; the highest is always 23). -/
def fixedLow : Instr → Nat
  | .start => 0
  | .status => 0
  | .readTemp => 0
  | .readHum => 0
  | .delay _ => 16
  | .edge _ => 16
  | .classify _ _ => 19

/-- The fixed bits' value in the instruction's row. -/
def fixedValue : Instr → Nat
  | .start => 0x100000
  | .status => 0x200000
  | .readTemp => 0x300000
  | .readHum => 0x400000
  | .delay _ => 0x50
  | .edge _ => 0x60
  | .classify _ _ => 0x70 / 8

/-- "A word W selects the row whose (W & mask) == match" (30_encoding R48). -/
def Statement (i : Instr) : Prop := (encode i).toNat / 2 ^ fixedLow i = fixedValue i

theorem start : Statement .start := by unfold Statement; decide

theorem status : Statement .status := by unfold Statement; decide

theorem readTemp : Statement .readTemp := by unfold Statement; decide

theorem readHum : Statement .readHum := by unfold Statement; decide

theorem delay (t : Tick) : Statement (.delay t) := by
  have h := t.isLt
  have e : (encode (.delay t)).toNat = 5 * 2 ^ 20 + 0 * 2 ^ 16 + t.toNat := encode_toNat (.delay t)
  simp only [Statement, e, fixedLow, fixedValue]
  omega

theorem edge (t : Tick) : Statement (.edge t) := by
  have h := t.isLt
  have e : (encode (.edge t)).toNat = 6 * 2 ^ 20 + 0 * 2 ^ 16 + t.toNat := encode_toNat (.edge t)
  simp only [Statement, e, fixedLow, fixedValue]
  omega

theorem classify (p : Phase) (iv : Int) : Statement (.classify p iv) := by
  have h := (BitVec.ofInt 16 iv).isLt
  have hp := p.code.isLt
  have e : (encode (.classify p iv)).toNat = 7 * 2 ^ 20 + p.code.toNat * 2 ^ 16 + (BitVec.ofInt 16 iv).toNat :=
    encode_toNat (.classify p iv)
  simp only [Statement, e, fixedLow, fixedValue]
  omega

end Sys2Proof.Laws.TableRow
end

