-- ==== Sys2Proof/Laws/Step.lean ====
section
/-! SUPPORT. What a step can do, by what is presented, and one induction over runs. -/

namespace Sys2Proof.Machine

theorem step_nil (s : State) (h : s.pending = []) : step s = .next s.clearOutputs := by
  rw [step, takeInput_nil s h]

theorem step_reset (s : State) {rest : List Input} (h : s.pending = .reset :: rest) :
    step s = .next (applyReset { s with pending := rest }) := by
  rw [step, takeInput_cons s h]

/-- A step runs what the decoder reads, on the state with the word taken. -/
theorem step_word_ok (s : State) {w : Word} {rest : List Input} {i : Instr} (h : s.pending = .word w :: rest)
    (hd : decode w = .ok i) : step s = exec i { s with pending := rest } := by
  simp only [step, takeInput_cons s h, hd]

/-- A step refuses a word the decoder rejects. -/
theorem step_word_error (s : State) {w : Word} {rest : List Input} {r : Reject} (h : s.pending = .word w :: rest)
    (hd : decode w = .error r) : step s = .refused (.illFormed w r) := by
  simp only [step, takeInput_cons s h, hd]

theorem step_withFetchWord (s : State) (nbits w : Nat) {i : Instr} (h : decode (tableWord nbits w) = .ok i) :
    step (s.withFetchWord nbits w) = exec i s :=
  step_word_ok (s.withFetchWord nbits w) (rest := s.pending) rfl h

/-! ## Runs -/

theorem run_zero (s : State) : run 0 s = .next s := rfl

theorem run_succ_of_next {s s' : State} (k : Nat) (h : step s = .next s') : run (k + 1) s = run k s' := by
  rw [run, h]

theorem run_succ_of_refused {s : State} {r : Refusal} (k : Nat) (h : step s = .refused r) :
    run (k + 1) s = .refused r := by
  rw [run, h]

/-- A run of `j + k` steps is a run of `j` and then of `k`. -/
theorem run_add {s s' : State} (j k : Nat) (h : run j s = .next s') : run (j + k) s = run k s' := by
  induction j generalizing s with
  | zero =>
    rw [run_zero] at h
    cases h
    rw [Nat.zero_add]
  | succ j ih =>
    rw [Nat.add_right_comm]
    cases hst : step s with
    | next u =>
      rw [run_succ_of_next _ hst] at h ⊢
      exact ih h
    | fault r => exact nomatch r
    | refused r =>
      rw [run_succ_of_refused _ hst] at h
      cases h

/-- What a step keeps, a run keeps. -/
theorem run_keeps (P : State → Prop) (hstep : ∀ s t, P s → step s = .next t → P t) :
    ∀ (k : Nat) (s t : State), P s → run k s = .next t → P t := by
  intro k
  induction k with
  | zero =>
    intro s t hs h
    rw [run_zero] at h
    cases h
    exact hs
  | succ k ih =>
    intro s t hs h
    cases hst : step s with
    | next u =>
      rw [run_succ_of_next k hst] at h
      exact ih u t (hstep s u hs hst) h
    | fault r => exact nomatch r
    | refused r =>
      rw [run_succ_of_refused k hst] at h
      cases h

end Sys2Proof.Machine
end

