-- ==== Sys2Proof/Tests/Slice0.lean ====
section
/-! SUPPORT. The model's own tests. Every expected value comes from the tables of spec/95_test_vectors.md (the row is named
in the comment) or is worked out by hand from the rule named there. After them, a witness for every statement that has
hypotheses: a concrete state and operands that meet all of them, at the boundary values of each clause. -/

namespace Sys2Proof.Tests

open Sys2Proof Sys2Proof.Machine

/-! ## Helpers -/

/-- A state with every field a literal: the reset values of 10_state R28, EDGE_TS = 0x1000 and the Reading (0x028F, 0,
0x00E7) of the V-EDGE and V-READ tables. -/
def base : State where
  phase := .idle
  edgeTs := 0x1000
  acc := 0
  cnt := 0
  rdHum := 0x028F
  rdTSign := 0
  rdTMag := 0x00E7
  capEn := false
  capEdge := .negative
  osArmed := false
  lineDir := .input
  lineLvl := .high
  linePu := true
  resp := none
  acts := []
  history := []
  resets := 0
  pending := []

/-- A state of each phase, with the enables, the polarity and the line as 10_state R29 has them there. -/
def at_ (p : Phase) : State :=
  { base with
    phase := p
    capEn := isCapture p
    capEdge := if p = .ack ∨ p = .waitData then .positive else .negative
    osArmed := decide (p = .start)
    lineDir := if p = .start then .output else .input
    lineLvl := .low }

/-- Data with 39 bits of the frame 0x028F00E778 taken (the start state of rows E17 to E19). -/
def lastBit : State := { at_ .data with cnt := 39, acc := 0x01478073BC }

/-- Idle with a stale callback (the start state of row C10). -/
def stale : State := { at_ .start with phase := .idle }

/-- `s` with one more word to come. -/
def withWord (s : State) (w : Word) : State := { s with pending := [.word w] }

/-- The next state of an outcome, or none where it stopped. -/
def nextOf : Host.Outcome State Fault Refusal → Option State
  | .next s => some s
  | .fault _ => none
  | .refused _ => none

/-- The refusal of an outcome. -/
def refusalOf : Host.Outcome State Fault Refusal → Option Refusal
  | .next _ => none
  | .fault _ => none
  | .refused r => some r

/-- The reason a word is refused for, or none where it decodes. -/
def reasonOf (w : Word) : Option Reject :=
  match decode w with
  | .ok _ => none
  | .error r => some r

theorem at_meets_invariants (p : Phase) : Inv (at_ p) := by
  cases p <;> constructor <;> decide

theorem lastBit_meets_invariants : Inv lastBit := by
  constructor <;> decide

theorem stale_meets_invariants : Inv stale := by
  constructor <;> decide

/-! ## Well-formedness (30_encoding R52, R57: the interval of CLASSIFY lies in [−32768, 32767]) -/

theorem test_wf_refuses_interval_above : (Instr.classify .data 32768).wf = false := by decide

theorem test_wf_refuses_interval_below : (Instr.classify .ack (-32769)).wf = false := by decide

theorem test_wf_accepts_interval_bounds :
    (Instr.classify .data 32767).wf = true ∧ (Instr.classify .ack (-32768)).wf = true := by decide

/-! ## Decoding: the fields OP, RSV, PH, PL written out (30_encoding R46, R48) -/

theorem test_decode_start : decode 0b0001_0_000_0000000000000000 = .ok .start := by rfl

theorem test_decode_status : decode 0b0010_0_000_0000000000000000 = .ok .status := by rfl

theorem test_decode_read_temp : decode 0b0011_0_000_0000000000000000 = .ok .readTemp := by rfl

theorem test_decode_read_hum : decode 0b0100_0_000_0000000000000000 = .ok .readHum := by rfl

/-- PL = 0x1234, a tick that is no palindrome (C7). -/
theorem test_decode_delay : decode 0b0101_0_000_0001001000110100 = .ok (.delay 0x1234) := by rfl

/-- PL = 0x10A0 (the example of 41_capture R66). -/
theorem test_decode_edge : decode 0b0110_0_000_0001000010100000 = .ok (.edge 0x10A0) := by rfl

/-- PH = 3 is Ack, PL = 0xFFB0 is −80 (V-CLS). -/
theorem test_decode_classify : decode 0b0111_0_011_1111111110110000 = .ok (.classify .ack (-80)) := by rfl

/-- The V-DEC table: every refused word, with its first failing condition. -/
theorem test_decode_refusals :
    [0x000000, 0x800000, 0x900000, 0xF00000].map reasonOf = List.replicate 4 (some .illegalOpcode) ∧
    [0x180000, 0x5FFFFF, 0x58FFFF, 0x6FFFFF, 0x7FFFFF, 0x780000].map reasonOf =
      List.replicate 6 (some .reservedBit) ∧
    [0x100001, 0x110000, 0x510000].map reasonOf = List.replicate 3 (some .reservedField) := by decide

/-- The order of the conditions: a word that breaks all of 30_encoding R49 is refused for its opcode. -/
theorem test_decode_opcode_first : reasonOf 0xFFFFFF = some .illegalOpcode := by decide

/-- 30_encoding R56: the most significant byte comes first. -/
theorem test_decode_bytes : decodeBytes [0x60, 0x10, 0xA0, 0x99] = some (.ok (.edge 0x10A0), [0x99]) := by rfl

theorem test_decode_table_word :
    decodeTableWord 24 0x501234 = some (.delay 0x1234) ∧ decodeTableWord 24 0x000000 = none := by decide

/-! ## The step and reset -/

/-- The host's question: a table word placed for the step runs first after reset (here DELAY, which with nothing scheduled
has no effect: C8). -/
theorem test_step_runs_fetch_word :
    (nextOf (step (State.reset.withFetchWord 24 0x501234))).map State.phase = some .idle ∧
      (nextOf (step (State.reset.withFetchWord 24 0x501234))).map State.acts = some [] := by decide

/-- 30_encoding R50. -/
theorem test_step_refuses : refusalOf (step (withWord base 0x180000)) = some (.illFormed 0x180000 .reservedBit) := by
  decide

/-- 10_state R28, 70_reset_and_hazards R119, from the middle of a frame. -/
theorem test_reset_input :
    (nextOf (step { lastBit with pending := [.reset] })).map (fun t => (t.phase, t.acc, t.cnt, t.capEn, t.lineLvl)) =
      some (.idle, 0, 0, false, .high) := by decide

/-- The tick's type and the frame's have the widths of 00_scope R8. -/
theorem test_widths : (0 : Tick).toNat < 2 ^ Config.tickBits ∧ Config.frameBits = 40 := by decide

/-! ## START, DELAY, STATUS -/

/-- C1, C6: START in Idle, a stale callback pending or not. -/
theorem test_start_accepted :
    (nextOf (exec .start (at_ .idle))).map (fun t => (t.phase, t.osArmed, t.lineDir, t.lineLvl)) =
        some (.start, true, .output, .low) ∧
      (nextOf (exec .start stale)).map (fun t => (t.phase, t.osArmed)) = some (.start, true) := by decide

/-- C5: START in Data with 39 bits changes nothing. -/
theorem test_start_busy : exec .start lastBit = .next lastBit := by rfl

/-- C7. -/
theorem test_delay_in_start :
    nextOf (exec (.delay 0x1234) (at_ .start)) = some { at_ .start with
      phase := .waitAck, edgeTs := 0x1234, capEn := true, osArmed := false, lineDir := .input
      acts := [.setLineDirection .input, .setPullUp true, .enableCapture .negative, .cancelOneShot] } := by decide

/-- C10, C9. -/
theorem test_delay_stale_and_idle :
    nextOf (exec (.delay 0x1234) stale) = some { stale with osArmed := false, acts := [.cancelOneShot] } ∧
      nextOf (exec (.delay 0x1234) (at_ .ack)) = some (at_ .ack) := by decide

/-- C11 to C18: the status of each phase, in the order of their codes. -/
theorem test_status :
    [Phase.idle, .start, .waitAck, .ack, .waitDataStart, .waitData, .data, .ready].map
        (fun p => (nextOf (exec .status (at_ p))).bind State.resp) =
      [0, 1, 1, 1, 1, 1, 1, 2].map (fun c => some (.status c)) := by decide

/-! ## READ_TEMP, READ_HUM -/

/-- C22: TRAW of a negative temperature, its value without the (free) offset, and Idle. -/
theorem test_read_temp_negative :
    signedTenths 1 0x009E = -158 ∧ temperatureRaw 1 0x009E = 0x809E ∧
      (nextOf (exec .readTemp { at_ .ready with rdTSign := 1, rdTMag := 0x009E })).map State.phase = some .idle := by
  decide

/-- C23: READ_TEMP in Data aborts the acquisition and keeps the Reading. -/
theorem test_read_temp_aborts :
    (nextOf (exec .readTemp lastBit)).map (fun t => (t.phase, t.cnt, t.acc, t.capEn, t.rdTMag)) =
      some (.idle, 0, 0, false, 0x00E7) := by decide

/-- C21: HRAW = 0x028F is 65.5. -/
theorem test_read_hum :
    (nextOf (exec .readHum (at_ .ready))).map (fun t => (t.phase, t.acts, t.history)) =
      some (.idle, [.disableCapture], [.idleEntered (.consumed .ready)]) := by decide

/-- C21 and C22: 0x028F is 65.5 and −0x009E is −15.8. -/
theorem test_tenths :
    ((humidityValue 0x028F).num, (humidityValue 0x028F).den) = (131, 2) ∧
      ((tenths (signedTenths 1 0x009E)).num, (tenths (signedTenths 1 0x009E)).den) = (-79, 5) := by decide

/-- C24: READ_HUM in Start leaves the one-shot armed and the line driven low (43_trigger R93). -/
theorem test_read_hum_in_start :
    (nextOf (exec .readHum (at_ .start))).map (fun t => (t.phase, t.osArmed, t.lineDir, t.lineLvl)) =
      some (.idle, true, .output, .low) := by decide

/-! ## EDGE -/

/-- V-INT: the wraps, both truncations and both ends. -/
theorem test_interval :
    interval 0x0090 0xFFF0 = 80 ∧ interval 0x1069 0x1000 = 52 ∧ interval 0x0FFD 0x1000 = -1 ∧
      interval 0x8FFF 0x1000 = 16383 ∧ interval 0x9000 0x1000 = -16384 := by decide

/-- E17: the 40th bit completes the frame 0x028F00E778. -/
theorem test_edge_publishes :
    nextOf (exec (.edge 0x1036) { lastBit with rdHum := 0, rdTSign := 1, rdTMag := 0 }) = some { lastBit with
      phase := .ready, cnt := 0, acc := 0, edgeTs := 0x1036, capEn := false, capEdge := .positive
      rdHum := 0x028F, rdTSign := 0, rdTMag := 0x00E7
      acts := [.setCapturePolarity .positive, .disableCapture]
      history := [.framePublished 0x028F 0x00E7] } := by decide

/-- E10: 76 µs in WaitData discards the bits. -/
theorem test_edge_timing_violation :
    nextOf (exec (.edge 0x1098) { at_ .waitData with cnt := 5, acc := 0x16 }) = some { at_ .waitData with
      phase := .idle, edgeTs := 0x1098, capEn := false, acts := [.disableCapture]
      history := [.idleEntered (.timingViolation .waitData 76)] } := by decide

/-! ## CLASSIFY -/

/-- V-CLS: the ends of the windows of Data, where the two overlap. -/
theorem test_classify_data :
    [1, 2, 45, 52, 53, 95, 96].map (fun iv => (nextOf (exec (.classify .data iv) base)).bind State.resp) =
      [0, 2, 2, 2, 3, 3, 0].map (fun c => some (.classification c)) := by decide

/-- V-CLS: one row of every other phase. -/
theorem test_classify_other_phases :
    [(Phase.ack, (105 : Int)), (.ack, -80), (.waitDataStart, 106), (.waitData, 25), (.waitAck, 80), (.ready, 70)].map
        (fun x => (nextOf (exec (.classify x.1 x.2) base)).bind State.resp) =
      [1, 0, 0, 4, 0, 0].map (fun c => some (.classification c)) := by decide

/-! ## Assembler text (30_encoding R57 to R59) -/

/-- Program P4's first edges: `FRAME 0x028F00E778` after `DELAY 0x2000` begins 60203C, 6020DC, 60217C, 6021E0. -/
theorem test_frame_pseudo_operation :
    ((expandLine 0x2000 (.frame 0x028F00E778)).take 4).map encode = [0x60203C, 0x6020DC, 0x60217C, 0x6021E0] := by
  decide

/-! ## Witnesses: hypotheses that are met together -/

theorem witness_DecodeOfEncodeIsIdentity :
    (Instr.classify .ready (-32768)).wf = true ∧ (Instr.classify .idle 32767).wf = true ∧
      (Instr.delay 0xFFFF).wf = true := by decide

theorem witness_EncodeOfDecodeIsIdentity :
    decode 0x778000 = .ok (.classify .ready (-32768)) ∧ decode 0x60FFFF = .ok (.edge 0xFFFF) := ⟨rfl, rfl⟩

/-- One word for each way to be ill formed: the opcodes on either side of 1..7, the reserved bit, PH in format E, PL in
format C. -/
theorem witness_IllFormedWordRefusedWithFirstReason :
    ((withWord base 0x0FFFFF).pending = .word 0x0FFFFF :: [] ∧ ¬ (1 ≤ 0x0FFFFF / 2 ^ 20 ∧ 0x0FFFFF / 2 ^ 20 ≤ 7)) ∧
    ((withWord base 0x800000).pending = .word 0x800000 :: [] ∧ ¬ (1 ≤ 0x800000 / 2 ^ 20 ∧ 0x800000 / 2 ^ 20 ≤ 7)) ∧
    ((withWord base 0x7FFFFF).pending = .word 0x7FFFFF :: [] ∧ (1 ≤ 0x7FFFFF / 2 ^ 20 ∧ 0x7FFFFF / 2 ^ 20 ≤ 7) ∧
      0x7FFFFF / 2 ^ 19 % 2 = 1) ∧
    ((withWord base 0x610000).pending = .word 0x610000 :: [] ∧ (1 ≤ 0x610000 / 2 ^ 20 ∧ 0x610000 / 2 ^ 20 ≤ 7) ∧
      0x610000 / 2 ^ 19 % 2 = 0 ∧ 0x610000 / 2 ^ 20 ≤ 6 ∧ 0x610000 / 2 ^ 16 % 8 ≠ 0) ∧
    ((withWord base 0x400001).pending = .word 0x400001 :: [] ∧ (1 ≤ 0x400001 / 2 ^ 20 ∧ 0x400001 / 2 ^ 20 ≤ 7) ∧
      0x400001 / 2 ^ 19 % 2 = 0 ∧ 0x400001 / 2 ^ 20 ≤ 4 ∧ 0x400001 % 2 ^ 16 ≠ 0) := by decide

theorem witness_SerialisedInstructionDecodes : (Instr.classify .data (-1)).wf = true ∧ Instr.start.wf = true := by decide

theorem witness_StepRunsDecodedInstruction :
    (withWord (at_ .ack) 0x6010A0).pending = .word 0x6010A0 :: [] ∧ decode 0x6010A0 = .ok (.edge 0x10A0) := ⟨rfl, rfl⟩

theorem witness_StepWithoutInputKeepsRegisters : base.pending = [] := rfl

theorem witness_ResetInputLoadsResetValues :
    ({ lastBit with pending := [.reset] } : State).pending = .reset :: [] := rfl

theorem witness_RefusalMarkLastsTheRun :
    refusalMark { base with history := [.refused 0x000000 .illegalOpcode], pending := [.reset] } = true := by decide

/-- Both phases that accept START, and the two next to them in the order of the codes. -/
theorem witness_StartBeginsAcquisitionUnlessBusy :
    (at_ .idle).phase = .idle ∧ (at_ .ready).phase = .ready ∧
      ((at_ .start).phase ≠ .idle ∧ (at_ .start).phase ≠ .ready) ∧
      ((at_ .data).phase ≠ .idle ∧ (at_ .data).phase ≠ .ready) := by decide

theorem witness_DelayInStartEnablesCapture : (at_ .start).osArmed = true ∧ (at_ .start).phase = .start := by decide

theorem witness_DelayElsewhereOnlyDisarms :
    (at_ .waitAck).osArmed = false ∧ (stale.osArmed = true ∧ stale.phase ≠ .start) := by decide

theorem witness_StatusReportsPhase :
    (at_ .ready).phase = .ready ∧ (at_ .idle).phase = .idle ∧
      ((at_ .start).phase ≠ .ready ∧ (at_ .start).phase ≠ .idle) := by decide

theorem witness_ReadTempAnswersTemperatureAndIdles :
    ∃ v : Rat, v = (if base.rdTSign = 1 then (-1 : Rat) else 1) * (base.rdTMag.toNat : Rat) / 10 + Config.calOffset :=
  ⟨_, rfl⟩

theorem witness_ReadHumAnswersHumidityAndIdles : ∃ v : Rat, v = (base.rdHum.toNat : Rat) / 10 := ⟨_, rfl⟩

theorem witness_ReadsAreIdempotentInValueOnly :
    (Instr.readTemp = .readTemp ∨ Instr.readTemp = .readHum) ∧ (Instr.readHum = .readTemp ∨ Instr.readHum = .readHum) ∧
      (Instr.status = .status ∨ ∃ p iv, Instr.status = .classify p iv) ∧
      (Instr.classify .data 52 = .status ∨ ∃ p iv, Instr.classify .data 52 = .classify p iv) :=
  ⟨.inl rfl, .inr rfl, .inl rfl, .inr ⟨_, _, rfl⟩⟩

/-- Every clause, at the ends of each window and beside them. -/
theorem witness_ClassifyAnswersWindowCode :
    (∀ x ∈ [((54 : Int), (0 : BitVec 3)), (55, 1), (105, 1), (106, 0)],
      (Phase.ack = .ack ∨ Phase.ack = .waitDataStart) ∧ x.2 = (if 55 ≤ x.1 ∧ x.1 ≤ 105 then 1 else 0)) ∧
    (∀ x ∈ [((24 : Int), (0 : BitVec 3)), (25, 4), (75, 4), (76, 0)],
      Phase.waitData = .waitData ∧ x.2 = (if 25 ≤ x.1 ∧ x.1 ≤ 75 then 4 else 0)) ∧
    (∀ x ∈ [((1 : Int), (0 : BitVec 3)), (2, 2), (52, 2), (53, 3), (95, 3), (96, 0)],
      Phase.data = .data ∧ x.2 = (if 2 ≤ x.1 ∧ x.1 ≤ 52 then 2 else if 53 ≤ x.1 ∧ x.1 ≤ 95 then 3 else 0)) ∧
    (∀ p ∈ [Phase.idle, .start, .waitAck, .ready],
      (p = .idle ∨ p = .start ∨ p = .waitAck ∨ p = .ready) ∧ (0 : BitVec 3) = 0) := by decide

/-- With the enable off in a capture phase, and with it on in each of the three phases without a row (row E22). -/
theorem witness_EdgeOutsideCaptureHasNoEffect :
    ({ at_ .ack with capEn := false } : State).capEn = false ∧
      (∀ p ∈ [Phase.idle, .start, .ready],
        ({ at_ p with capEn := true } : State).phase = .idle ∨ ({ at_ p with capEn := true } : State).phase = .start ∨
          ({ at_ p with capEn := true } : State).phase = .ready) := by decide

theorem witness_EdgeInWaitAckIsAlwaysAccepted : (at_ .waitAck).capEn = true ∧ (at_ .waitAck).phase = .waitAck := by decide

/-- Intervals 55 and 105 (E4, E7), 54 and 106 (E5, E6). -/
theorem witness_EdgeInAckChecksEightyMicroseconds :
    (at_ .ack).capEn = true ∧ (at_ .ack).phase = .ack ∧ 55 = interval 0x106E (at_ .ack).edgeTs ∧
      105 = interval 0x10D2 (at_ .ack).edgeTs ∧ 54 = interval 0x106C (at_ .ack).edgeTs ∧
      106 = interval 0x10D4 (at_ .ack).edgeTs := by decide

theorem witness_EdgeInWaitDataStartChecksEightyMicroseconds :
    (at_ .waitDataStart).capEn = true ∧ (at_ .waitDataStart).phase = .waitDataStart ∧
      55 = interval 0x106E (at_ .waitDataStart).edgeTs ∧ 105 = interval 0x10D2 (at_ .waitDataStart).edgeTs ∧
      54 = interval 0x106C (at_ .waitDataStart).edgeTs ∧ 106 = interval 0x10D4 (at_ .waitDataStart).edgeTs := by decide

/-- Intervals 25 and 75, 24 and 76. -/
theorem witness_EdgeInWaitDataChecksFiftyMicroseconds :
    (at_ .waitData).capEn = true ∧ (at_ .waitData).phase = .waitData ∧ 25 = interval 0x1032 (at_ .waitData).edgeTs ∧
      75 = interval 0x1096 (at_ .waitData).edgeTs ∧ 24 = interval 0x1030 (at_ .waitData).edgeTs ∧
      76 = interval 0x1098 (at_ .waitData).edgeTs := by decide

/-- Intervals 2, 52 (bit 0) and 53, 95 (bit 1), at the first bit; both ends at the 39th and beyond the 40th (log 11). -/
theorem witness_EdgeInDataAppendsBit :
    (at_ .data).capEn = true ∧ (at_ .data).phase = .data ∧ (at_ .data).cnt.toNat ≠ 39 ∧
      (∀ c ∈ [(38 : BitVec 6), 40, 63], ({ lastBit with cnt := c } : State).capEn = true ∧
        ({ lastBit with cnt := c } : State).phase = .data ∧ ({ lastBit with cnt := c } : State).cnt.toNat ≠ 39 ∧
        2 = interval 0x1004 ({ lastBit with cnt := c } : State).edgeTs ∧
        95 = interval 0x10BE ({ lastBit with cnt := c } : State).edgeTs) ∧
      2 = interval 0x1004 (at_ .data).edgeTs ∧ 52 = interval 0x1068 (at_ .data).edgeTs ∧
      53 = interval 0x106A (at_ .data).edgeTs ∧ 95 = interval 0x10BE (at_ .data).edgeTs := by decide

/-- Intervals 1 and 96, at the 40th bit. -/
theorem witness_EdgeInDataRejectsOtherIntervals :
    lastBit.capEn = true ∧ lastBit.phase = .data ∧
      (1 = interval 0x1002 lastBit.edgeTs ∧ ¬ (2 ≤ (1 : Int) ∧ (1 : Int) ≤ 95)) ∧
      (96 = interval 0x10C0 lastBit.edgeTs ∧ ¬ (2 ≤ (96 : Int) ∧ (96 : Int) ≤ 95)) := by decide

/-- Bit 0 (E17), and bit 1 completing a frame whose checksum is good: 0x01F4000AFF. -/
theorem witness_FortiethBitPublishesValidFrame :
    (lastBit.capEn = true ∧ lastBit.phase = .data ∧ 27 = interval 0x1036 lastBit.edgeTs ∧ lastBit.cnt.toNat = 39 ∧
      (0x028F00E778 : Frame) = BitVec.ofNat 40 (2 * lastBit.acc.toNat + 0) ∧ frameValid 0x028F00E778 = true) ∧
    (53 = interval 0x106A lastBit.edgeTs ∧
      (0x01F4000AFF : Frame) = BitVec.ofNat 40 (2 * ({ lastBit with acc := 0xFA00057F } : State).acc.toNat + 1) ∧
      frameValid 0x01F4000AFF = true) := by decide

/-- Bit 1 (E18), and bit 0 completing 0x01F4000AFE. -/
theorem witness_FortiethBitOfInvalidFrameAborts :
    (lastBit.capEn = true ∧ lastBit.phase = .data ∧ 70 = interval 0x108C lastBit.edgeTs ∧ lastBit.cnt.toNat = 39 ∧
      (0x028F00E779 : Frame) = BitVec.ofNat 40 (2 * lastBit.acc.toNat + 1) ∧ frameValid 0x028F00E779 = false) ∧
    (52 = interval 0x1068 lastBit.edgeTs ∧
      (0x01F4000AFE : Frame) = BitVec.ofNat 40 (2 * ({ lastBit with acc := 0xFA00057F } : State).acc.toNat + 0) ∧
      frameValid 0x01F4000AFE = false) := by decide

theorem witness_MissedCaptureAtNominalTimingAborts :
    (at_ .ack).capEn = true ∧ 210 = interval 0x11A4 (at_ .ack).edgeTs ∧ (at_ .waitDataStart).capEn = true ∧
      157 = interval 0x113A (at_ .waitDataStart).edgeTs ∧ (at_ .waitData).capEn = true ∧
      127 = interval 0x10FE (at_ .waitData).edgeTs ∧ (at_ .data).capEn = true ∧
      104 = interval 0x10D0 (at_ .data).edgeTs ∧ 147 = interval 0x1126 (at_ .data).edgeTs := by decide

/-- A bit in Data is taken in a step from a state that meets the invariants. -/
theorem witness_StepKeepsInvariants :
    Inv { lastBit with pending := [.word 0x601036] } ∧
      ∃ t, step { lastBit with pending := [.word 0x601036] } = .next t := by
  constructor
  · constructor <;> decide
  · exact ⟨_, rfl⟩

/-- Every listed kind of move happens. -/
theorem witness_PhaseMovesOnlyAsListed :
    (∃ t, exec .start (at_ .ready) = .next t ∧ t.phase ≠ (at_ .ready).phase) ∧
    (∃ t, exec (.delay 0) (at_ .start) = .next t ∧ t.phase ≠ (at_ .start).phase) ∧
    (∃ t, exec .readHum (at_ .ready) = .next t ∧ t.phase ≠ (at_ .ready).phase) ∧
    (∃ t, exec (.edge 0x1036) lastBit = .next t ∧ t.phase ≠ lastBit.phase) :=
  ⟨⟨_, rfl, by decide⟩, ⟨_, rfl, by decide⟩, ⟨_, rfl, by decide⟩, ⟨_, rfl, by decide⟩⟩

/-- Both alternatives: an EDGE that publishes and one that does not. -/
theorem witness_ReadingWrittenOnlyByValidFrame :
    (∃ t, exec (.edge 0x1036) { lastBit with rdHum := 0 } = .next t ∧ t.rdHum ≠ 0) ∧
      ∃ t, exec (.edge 0x108C) lastBit = .next t ∧ t.rdHum = lastBit.rdHum :=
  ⟨⟨_, rfl, by decide⟩, ⟨_, rfl, by decide⟩⟩

theorem witness_CaptureEnabledOnlyByDelay :
    (∃ t, exec (.delay 0) (at_ .start) = .next t ∧ (at_ .start).capEn = false ∧ t.capEn = true) ∧
      (∃ t, exec (.edge 0x1036) lastBit = .next t ∧ lastBit.capEn = true ∧ t.capEn = false) ∧
      ∃ t, exec .readTemp (at_ .ack) = .next t ∧ (at_ .ack).capEn = true ∧ t.capEn = false :=
  ⟨⟨_, rfl, by decide, by decide⟩, ⟨_, rfl, by decide, by decide⟩, ⟨_, rfl, by decide, by decide⟩⟩

theorem witness_OneShotWrittenOnlyByStartAndDelay :
    (∃ t, exec .start (at_ .idle) = .next t) ∧ (∃ t, exec (.delay 0) (at_ .start) = .next t) ∧
      ∃ t, exec .readTemp (at_ .start) = .next t ∧ Instr.readTemp ≠ .start ∧ ∀ x, Instr.readTemp ≠ .delay x :=
  ⟨⟨_, rfl⟩, ⟨_, rfl⟩, ⟨_, rfl, by decide, fun _ h => nomatch h⟩⟩

theorem witness_LineConfiguredOnlyByStartAndDelay :
    (∃ t, exec .start (at_ .idle) = .next t ∧ t.lineDir ≠ (at_ .idle).lineDir) ∧
      (∃ t, exec (.delay 0) (at_ .start) = .next t ∧ t.lineDir ≠ (at_ .start).lineDir) ∧
      ∃ t, exec .readHum (at_ .start) = .next t ∧ t.lineDir = (at_ .start).lineDir :=
  ⟨⟨_, rfl, by decide⟩, ⟨_, rfl, by decide⟩, ⟨_, rfl, by decide⟩⟩

theorem witness_EdgeTimestampHoldsLastTick :
    (∃ t, exec (.edge 0x1002) (at_ .ack) = .next t ∧ t.edgeTs = 0x1002) ∧
      (∃ t, exec (.delay 7) (at_ .start) = .next t ∧ t.edgeTs = 7) ∧
      ∃ t, exec (.delay 7) (at_ .idle) = .next t ∧ t.edgeTs = 0x1000 :=
  ⟨⟨_, rfl, by decide⟩, ⟨_, rfl, by decide⟩, ⟨_, rfl, by decide⟩⟩

/-- A run through the DELAY that makes EDGE_TS observable again, and one that a refusal ends. -/
theorem witness_DeadTimestampIsUnobservable :
    isCapture (at_ .start).phase = false ∧
      (∃ t, run 1 (withWord (at_ .start) 0x501234) = .next t ∧ isCapture t.phase = true) ∧
      ∃ r, run 1 (withWord (at_ .start) 0x000000) = .refused r :=
  ⟨by decide, ⟨_, rfl, by decide⟩, ⟨_, rfl⟩⟩

theorem witness_LineAndPolarityAreNeverRead : ∃ t, exec (.edge 0x1036) lastBit = .next t := ⟨_, rfl⟩

/-- One TimingViolation in each of the four phases, at an interval beside the window. -/
theorem witness_TimingViolationExactlyOutsideWindow :
    (∃ t, exec (.edge 0x10D4) (at_ .ack) = .next t ∧ t.history = [.idleEntered (.timingViolation .ack 106)]) ∧
      (∃ t, exec (.edge 0x106C) (at_ .waitDataStart) = .next t ∧
        t.history = [.idleEntered (.timingViolation .waitDataStart 54)]) ∧
      (∃ t, exec (.edge 0x1098) (at_ .waitData) = .next t ∧
        t.history = [.idleEntered (.timingViolation .waitData 76)]) ∧
      ∃ t, exec (.edge 0x1002) (at_ .data) = .next t ∧ t.history = [.idleEntered (.timingViolation .data 1)] :=
  ⟨⟨_, rfl, by decide⟩, ⟨_, rfl, by decide⟩, ⟨_, rfl, by decide⟩, ⟨_, rfl, by decide⟩⟩

theorem witness_ErrorsLeaveStartableIdle :
    (∃ t, exec (.edge 0x1100) lastBit = .next t ∧
        ∃ p iv, t.history = lastBit.history ++ [.idleEntered (.timingViolation p iv)]) ∧
      ∃ t, exec (.edge 0x108C) lastBit = .next t ∧
        ∃ v, t.history = lastBit.history ++ [.idleEntered (.checksumMismatch v)] :=
  ⟨⟨_, rfl, .data, 128, by decide⟩, ⟨_, rfl, 0x028F00E779, by decide⟩⟩

/-- Both alternatives: the read in Start, and a step that leaves a stale callback as it is. -/
theorem witness_StaleCallbackOnlyAfterReadInStart :
    (Inv (at_ .start) ∧ ∃ t, exec .readTemp (at_ .start) = .next t ∧ t.phase = .idle ∧ t.osArmed = true) ∧
      (Inv stale ∧ ∃ t, exec .status stale = .next t ∧ t.phase = .idle ∧ t.osArmed = true) :=
  ⟨⟨at_meets_invariants _, _, rfl, by decide, by decide⟩, ⟨stale_meets_invariants, _, rfl, by decide, by decide⟩⟩

theorem witness_ParkedPhaseLeftOnlyByEdgeOrRead :
    Inv (at_ .waitAck) ∧ isCapture (at_ .waitAck).phase = true ∧ Inv lastBit ∧ isCapture lastBit.phase = true ∧
      (∀ x, Instr.delay 0x1234 ≠ .edge x) ∧ Instr.delay 0x1234 ≠ .readTemp ∧ Instr.delay 0x1234 ≠ .readHum :=
  ⟨at_meets_invariants _, by decide, lastBit_meets_invariants, by decide,
    (fun _ h => nomatch h), by decide, by decide⟩

/-- An EDGE that completes with success, one that does not, and a read. -/
theorem witness_AcquisitionSucceedsExactlyOnPublication :
    (∃ t, exec (.edge 0x1036) lastBit = .next t ∧ CompletesAcquisition lastBit t ∧ t.phase = .ready) ∧
      (∃ t, exec (.edge 0x108C) lastBit = .next t ∧ CompletesAcquisition lastBit t ∧ t.phase = .idle) ∧
      ∃ t, exec .readHum (at_ .start) = .next t ∧ CompletesAcquisition (at_ .start) t :=
  ⟨⟨_, rfl, ⟨by decide, by decide⟩, by decide⟩, ⟨_, rfl, ⟨by decide, by decide⟩, by decide⟩,
    ⟨_, rfl, by decide, by decide⟩⟩

/-- The nominal timing of `FRAME v` (30_encoding R59), in ticks. -/
def nominalTiming (v : Frame) : FrameTiming where
  latency := 60
  ackLow := 160
  ackHigh := 160
  bits := (List.range 40).map fun k => ⟨100, if v.getMsbD k then 140 else 54⟩

/-- The timing at the ends of the windows: the fastest acknowledgement and bits that are still read as `v`. -/
def fastestTiming (v : Frame) : FrameTiming where
  latency := 0
  ackLow := 110
  ackHigh := 110
  bits := (List.range 40).map fun k => ⟨50, if v.getMsbD k then 106 else 4⟩

theorem nominalTiming_carries (v : Frame) : (nominalTiming v).Carries v := by
  refine ⟨by simp [nominalTiming], by simp [nominalTiming], by simp [nominalTiming], ?_⟩
  intro k g h
  simp only [nominalTiming, List.getElem?_map] at h
  obtain ⟨j, hj, rfl⟩ := Option.map_eq_some_iff.mp h
  obtain rfl : j = k := by
    have := List.getElem?_eq_some_iff.mp hj
    simpa using this.2.symm
  cases hv : v.getMsbD j <;> simp [BitTiming.Sends]

theorem fastestTiming_carries (v : Frame) : (fastestTiming v).Carries v := by
  refine ⟨by simp [fastestTiming], by simp [fastestTiming], by simp [fastestTiming], ?_⟩
  intro k g h
  simp only [fastestTiming, List.getElem?_map] at h
  obtain ⟨j, hj, rfl⟩ := Option.map_eq_some_iff.mp h
  obtain rfl : j = k := by
    have := List.getElem?_eq_some_iff.mp hj
    simpa using this.2.symm
  cases hv : v.getMsbD j <;> simp [BitTiming.Sends]

/-- A startable state that is about to be sent the frame `v`. -/
def beforeFrame (p : Phase) (f : FrameTiming) : State := { at_ p with pending := acquisitionInputs 0xFFF0 f ++ [] }

theorem witness_ValidFrameIsReceived :
    Inv (beforeFrame .ready (nominalTiming 0x028F00E778)) ∧ (nominalTiming 0x028F00E778).Carries 0x028F00E778 ∧
      Inv (beforeFrame .idle (fastestTiming 0xFFFFFFFFFC)) ∧ (fastestTiming 0xFFFFFFFFFC).Carries 0xFFFFFFFFFC ∧
      (beforeFrame .ready (nominalTiming 0x028F00E778)).phase = .ready ∧
      (beforeFrame .ready (nominalTiming 0x028F00E778)).pending =
        acquisitionInputs 0xFFF0 (nominalTiming 0x028F00E778) ++ [] ∧
      (beforeFrame .idle (fastestTiming 0xFFFFFFFFFC)).phase = .idle ∧
      (beforeFrame .idle (fastestTiming 0xFFFFFFFFFC)).pending = acquisitionInputs 0xFFF0 (fastestTiming 0xFFFFFFFFFC) ++ [] ∧
      frameValid 0x028F00E778 = true ∧ frameValid 0xFFFFFFFFFC = true :=
  ⟨by constructor <;> decide, nominalTiming_carries _, by constructor <;> decide, fastestTiming_carries _, rfl, rfl,
    rfl, rfl, by decide, by decide⟩

theorem witness_InvalidFrameLeavesReading :
    Inv (beforeFrame .ready (nominalTiming 0x028F00E779)) ∧ (nominalTiming 0x028F00E779).Carries 0x028F00E779 ∧
      Inv (beforeFrame .idle (fastestTiming 0x80008000FF)) ∧ (fastestTiming 0x80008000FF).Carries 0x80008000FF ∧
      (beforeFrame .ready (nominalTiming 0x028F00E779)).phase = .ready ∧
      (beforeFrame .ready (nominalTiming 0x028F00E779)).pending =
        acquisitionInputs 0xFFF0 (nominalTiming 0x028F00E779) ++ [] ∧
      (beforeFrame .idle (fastestTiming 0x80008000FF)).phase = .idle ∧
      (beforeFrame .idle (fastestTiming 0x80008000FF)).pending = acquisitionInputs 0xFFF0 (fastestTiming 0x80008000FF) ++ [] ∧
      frameValid 0x028F00E779 = false ∧ frameValid 0x80008000FF = false :=
  ⟨by constructor <;> decide, nominalTiming_carries _, by constructor <;> decide, fastestTiming_carries _, rfl, rfl,
    rfl, rfl, by decide, by decide⟩

end Sys2Proof.Tests
end

section
/-! The step by what is presented (spec/00_scope.md R6, R7): a decodable word, and nothing. -/

namespace Sys2Proof.Machine

/-- Settles O8: the head of `pending` is taken, and the decoder's success selects the branch of `step` that runs `exec`. -/
theorem stepRunsDecodedInstruction : Obligations.StepRunsDecodedInstruction := by
  intro s w rest i hpending hdecode
  exact step_word_ok s hpending hdecode

/-- Settles O9: with nothing to take, `step` only clears the outputs of the step before. -/
theorem stepWithoutInputKeepsRegisters : Obligations.StepWithoutInputKeepsRegisters := by
  intro s hpending
  rw [step_nil s hpending, State.clearOutputs_eq]

end Sys2Proof.Machine
end

section
/-! What a step answers, what an instruction does to the registers, in six cases, and what an EDGE outcome keeps or
moves. -/

namespace Sys2Proof.Machine

/-! ## Every instruction as one equation, and every step by its outcome -/

/-- START as one equation. -/
theorem exec_start (s : State) :
    exec .start s = .next (if isStartable s.phase then beginAcquisition s.clearOutputs else s.clearOutputs) := by
  simp only [exec, execStart]
  split <;> rfl

/-- DELAY as one equation. -/
theorem exec_delay (x : Tick) (s : State) :
    exec (.delay x) s = .next (if s.osArmed = false then s.clearOutputs
      else if s.phase = .start then beginCapture x s.clearOutputs else disarmOneShot s.clearOutputs) := by
  simp only [exec, execDelay]
  split
  · rfl
  · split <;> rfl

theorem exec_ne_refused (i : Instr) (s : State) (r : Refusal) : exec i s ≠ .refused r := by
  cases i with
  | start => rw [exec_start]; nofun
  | delay x => rw [exec_delay]; nofun
  | status | readTemp | readHum | edge | classify => nofun

/-- A step that answers a next state: nothing presented, a reset, or an instruction. -/
theorem step_next_cases {s t : State} (h : step s = .next t) :
    (s.pending = [] ∧ t = s.clearOutputs) ∨
    (∃ rest, s.pending = .reset :: rest ∧ t = applyReset { s with pending := rest }) ∨
    (∃ w rest i, s.pending = .word w :: rest ∧ decode w = .ok i ∧ exec i { s with pending := rest } = .next t) := by
  rcases hs : s.pending with _ | ⟨w | _, rest⟩
  · rw [step_nil s hs] at h
    cases h
    exact .inl ⟨rfl, rfl⟩
  · cases hdecode : decode w with
    | ok i => exact .inr (.inr ⟨w, rest, i, rfl, hdecode, step_word_ok s hs hdecode ▸ h⟩)
    | error r =>
      rw [step_word_error s hs hdecode] at h
      cases h
  · rw [step_reset s hs] at h
    cases h
    exact .inr (.inl ⟨rest, rfl, rfl⟩)

/-- Only a word the decoder rejects is refused. -/
theorem step_refused_cases {s : State} {r : Refusal} (h : step s = .refused r) :
    ∃ w rest reason, s.pending = .word w :: rest ∧ decode w = .error reason ∧ r = .illFormed w reason := by
  rcases hs : s.pending with _ | ⟨w | _, rest⟩
  · rw [step_nil s hs] at h
    cases h
  · cases hdecode : decode w with
    | ok i => exact absurd (step_word_ok s hs hdecode ▸ h) (exec_ne_refused i _ r)
    | error reason =>
      rw [step_word_error s hs hdecode] at h
      cases h
      exact ⟨w, rest, reason, rfl, hdecode, rfl⟩
  · rw [step_reset s hs] at h
    cases h

/-! ## An instruction's effect on the registers -/

/-- The next states of `exec`, grouped by what happens to the registers: `exec_next_cases` with the instructions
together that change no register, and the two reads together. -/
inductive ExecEffect (s : State) : Instr → State → Prop
  /-- STATUS, CLASSIFY, a START that is not accepted, a DELAY without a pending callback. -/
  | outputsOnly {i : Instr} (r : Option Response) (hstart : i = .start → isStartable s.phase = false)
      (hdelay : ∀ x, i = .delay x → s.osArmed = false) : ExecEffect s i { s with resp := r, acts := [] }
  /-- 43_trigger R89. -/
  | acquisitionBegun (hp : isStartable s.phase = true) : ExecEffect s .start (beginAcquisition s.clearOutputs)
  /-- 44_facade R95, R96. -/
  | consumed {i : Instr} (hi : i = .readTemp ∨ i = .readHum) (c : IdleCause) (r : Response) :
      ExecEffect s i (idleEntry c (s.clearOutputs.respond r))
  /-- 43_trigger R90. -/
  | captureBegun (x : Tick) (hp : s.phase = .start) : ExecEffect s (.delay x) (beginCapture x s.clearOutputs)
  /-- 43_trigger R93. -/
  | disarmed (x : Tick) (hp : s.phase ≠ .start) : ExecEffect s (.delay x) (disarmOneShot s.clearOutputs)
  /-- 41_capture R66. -/
  | edge (x : Tick) {t : State} (h : EdgeOutcome x s.clearOutputs t) : ExecEffect s (.edge x) t

theorem exec_effect {i : Instr} {s t : State} (h : exec i s = .next t) : ExecEffect s i t := by
  rcases exec_next_cases h with ⟨rfl, hp, rfl⟩ | ⟨rfl, hp, rfl⟩ | ⟨rfl, rfl⟩ | ⟨rfl, rfl⟩ | ⟨rfl, rfl⟩ |
    ⟨x, rfl, ha, rfl⟩ | ⟨x, rfl, -, hp, rfl⟩ | ⟨x, rfl, -, hp, rfl⟩ | ⟨x, rfl, he⟩ | ⟨p, iv, rfl, rfl⟩
  · exact .acquisitionBegun hp
  · exact .outputsOnly none (fun _ => hp) nofun
  · exact .outputsOnly (some _) nofun nofun
  · exact .consumed (.inl rfl) _ _
  · exact .consumed (.inr rfl) _ _
  · exact .outputsOnly none nofun fun _ _ => ha
  · exact .captureBegun x hp
  · exact .disarmed x hp
  · exact .edge x he
  · exact .outputsOnly (some _) nofun nofun

section
variable {x : Tick} {s t : State}

/-- 41_capture R67: without the enable an EDGE changes nothing. -/
theorem EdgeOutcome.eq_of_not_enabled (h : EdgeOutcome x s t) (he : s.capEn = false) : t = s := by
  cases h with
  | noEffect => rfl
  | forward _ _ h1 | violation h1 | bit _ h1 | publish _ h1 | mismatch _ h1 => rw [he] at h1; cases h1

theorem EdgeOutcome.osArmed_eq (h : EdgeOutcome x s t) : t.osArmed = s.osArmed := by cases h <;> rfl

theorem EdgeOutcome.line_eq (h : EdgeOutcome x s t) :
    t.lineDir = s.lineDir ∧ t.lineLvl = s.lineLvl ∧ t.linePu = s.linePu := by cases h <;> exact ⟨rfl, rfl, rfl⟩

theorem EdgeOutcome.startable_of_capEn_cleared (h : EdgeOutcome x s t) (h1 : s.capEn = true) (h0 : t.capEn = false) :
    t.phase = .idle ∨ t.phase = .ready := by
  cases h with
  | noEffect | forward | bit => rw [h1] at h0; cases h0
  | violation | mismatch => exact .inl rfl
  | publish => exact .inr rfl

/-- The moves of the phase under an effective EDGE (10_state R18). -/
def EdgeMove (p q : Phase) : Prop :=
  (p = .waitAck ∧ q = .ack) ∨ (p = .ack ∧ q = .waitDataStart) ∨ (p = .waitDataStart ∧ q = .waitData) ∨
    (p = .waitData ∧ q = .data) ∨ (p = .data ∧ (q = .waitData ∨ q = .ready)) ∨
    ((p = .ack ∨ p = .waitDataStart ∨ p = .waitData ∨ p = .data) ∧ q = .idle)

theorem Forward.edgeMove {p q : Phase} {i : Int} {pol : Polarity} (h : Forward p i q pol) : EdgeMove p q := by
  cases h <;> simp [EdgeMove]

theorem Violates.edgeMove {p : Phase} {i : Int} (h : Violates p i) : EdgeMove p .idle := by
  cases h <;> simp [EdgeMove]

theorem EdgeOutcome.edgeMove (h : EdgeOutcome x s t) (hne : t.phase ≠ s.phase) :
    s.capEn = true ∧ EdgeMove s.phase t.phase := by
  cases h with
  | noEffect => exact absurd rfl hne
  | forward q pol he hf => exact ⟨he, hf.edgeMove⟩
  | violation he hv => exact ⟨he, hv.edgeMove⟩
  | bit b he hp | publish b he hp | mismatch b he hp => exact ⟨he, by simp [EdgeMove, hp]⟩

end

end Sys2Proof.Machine
end

section
/-! Reset, and the invariants of spec/10_state.md R29: one lemma per operation that writes a register they speak of. -/

namespace Sys2Proof.Machine

/-- Settles O10: `applyReset` on the state with the reset taken, written out. -/
theorem resetInputLoadsResetValues : Obligations.ResetInputLoadsResetValues := by
  intro s rest hpending
  rw [step_reset s hpending]
  rfl

/-- Settles O11, by the definition of `State.reset`. -/
theorem resetStateHoldsGivenValues : Obligations.ResetStateHoldsGivenValues :=
  ⟨rfl, rfl, rfl, rfl, rfl, rfl, rfl, rfl, rfl, rfl⟩

section
variable {s : State}

/-- The invariants outside the capture phases: the frame is empty, capture is off, and the one-shot decides what is
known of the line. -/
theorem Inv.of_not_capture (hp : isCapture s.phase = false) (hcnt : s.cnt = 0) (hacc : s.acc = 0)
    (he : s.capEn = false) (hstart : s.phase = .start → s.osArmed = true)
    (harmed : s.osArmed = true → (s.phase = .start ∨ s.phase = .idle) ∧ s.lineDir = .output ∧ s.lineLvl = .low)
    (hhigh : s.lineDir = .output → s.lineLvl = .low) : Inv s where
  cnt_lt := by simp [hcnt]
  acc_lt := by simp [hcnt, hacc]
  empty _ _ := ⟨hcnt, hacc⟩
  capEn_iff := by simp [he, hp]
  start_line h := ⟨hstart h, (harmed (hstart h)).2⟩
  capture_line h := by simp [hp] at h
  exclusive := by simp [he]
  polarity_negative h := by rcases h with h | h | h <;> simp [h, isCapture] at hp
  polarity_positive h := by rcases h with h | h <;> simp [h, isCapture] at hp
  armed_line := harmed
  never_high := hhigh

/-- The invariants in the capture phases: capture is on, the one-shot off, and the line an input with its pull-up. -/
theorem Inv.of_capture (hp : isCapture s.phase = true) (hcnt : s.cnt.toNat < 40) (hacc : s.acc.toNat < 2 ^ s.cnt.toNat)
    (hempty : s.phase ≠ .waitData → s.phase ≠ .data → s.cnt = 0 ∧ s.acc = 0) (he : s.capEn = true)
    (hline : s.osArmed = false ∧ s.lineDir = .input ∧ s.linePu = true)
    (hneg : s.phase = .waitAck ∨ s.phase = .waitDataStart ∨ s.phase = .data → s.capEdge = .negative)
    (hpos : s.phase = .ack ∨ s.phase = .waitData → s.capEdge = .positive) : Inv s where
  cnt_lt := hcnt
  acc_lt := hacc
  empty := hempty
  capEn_iff := by simp [he, hp]
  start_line h := by simp [h, isCapture] at hp
  capture_line _ := hline
  exclusive := by simp [hline]
  polarity_negative := hneg
  polarity_positive := hpos
  armed_line h := by simp [hline] at h
  never_high h := by simp [hline] at h

/-- Settles O35: Idle is no capture phase, the frame is empty, both sources are off and the line is an input. -/
theorem resetMeetsInvariants : Obligations.ResetMeetsInvariants :=
  Inv.of_not_capture rfl rfl rfl rfl nofun nofun nofun

/-! ## What the invariants give -/

/-- The invariants speak of neither EDGE_TS nor the Reading nor the model's own fields. -/
theorem Inv.of_unrelated (h : Inv s) (ts : Tick) (hum : BitVec 16) (sign : BitVec 1) (mag : BitVec 15)
    (resp : Option Response) (acts : List Action) (history : List Event) (resets : Nat) (pending : List Input) :
    Inv { s with
      edgeTs := ts, rdHum := hum, rdTSign := sign, rdTMag := mag, resp := resp, acts := acts, history := history
      resets := resets, pending := pending } :=
  { h with }

theorem Inv.clearOutputs (h : Inv s) : Inv s.clearOutputs := h.of_unrelated ..

theorem Inv.respond (h : Inv s) (r : Response) : Inv (s.respond r) := h.of_unrelated ..

theorem Inv.isCapture_of_enabled (h : Inv s) (he : s.capEn = true) : isCapture s.phase = true := h.capEn_iff.mp he

theorem Inv.capEn_eq_false (h : Inv s) (hp : isCapture s.phase = false) : s.capEn = false :=
  Bool.eq_false_iff.mpr fun he => by simp [h.isCapture_of_enabled he] at hp

theorem Inv.osArmed_eq_false (h : Inv s) (he : s.capEn = true) : s.osArmed = false :=
  (h.capture_line (h.isCapture_of_enabled he)).1

theorem Inv.empty_of_not_capture (h : Inv s) (hp : isCapture s.phase = false) : s.cnt = 0 ∧ s.acc = 0 :=
  h.empty (fun e => by simp [e, isCapture] at hp) (fun e => by simp [e, isCapture] at hp)

theorem isCapture_of_startable {p : Phase} (hp : isStartable p = true) : isCapture p = false := by
  rcases (isStartable_iff p).mp hp with rfl | rfl <;> rfl

/-! ## The operations keep them -/

theorem Inv.applyReset (s : State) : Inv (applyReset s) := Inv.of_unrelated (s := State.reset) resetMeetsInvariants ..

theorem Inv.beginAcquisition (h : Inv s) (hp : isStartable s.phase = true) : Inv (beginAcquisition s) := by
  have hq := isCapture_of_startable hp
  obtain ⟨hcnt, hacc⟩ := h.empty_of_not_capture hq
  exact .of_not_capture rfl hcnt hacc (h.capEn_eq_false hq) (fun _ => rfl) (fun _ => ⟨.inl rfl, rfl, rfl⟩) fun _ => rfl

theorem Inv.beginCapture (h : Inv s) (x : Tick) (hp : s.phase = .start) : Inv (beginCapture x s) := by
  obtain ⟨hcnt, hacc⟩ := h.empty_of_not_capture (by rw [hp]; rfl)
  exact .of_capture rfl h.cnt_lt h.acc_lt (fun _ _ => ⟨hcnt, hacc⟩) rfl ⟨rfl, rfl, rfl⟩ (fun _ => rfl) nofun

/-- Outside Start no item asks for an armed one-shot. -/
theorem Inv.disarmOneShot (h : Inv s) (hp : s.phase ≠ .start) : Inv (disarmOneShot s) :=
  { h with
    start_line := fun hs => absurd hs hp
    capture_line := fun hc => ⟨rfl, (h.capture_line hc).2⟩
    exclusive := nofun
    armed_line := nofun }

/-- An acquisition ends in Idle, or in Ready with the one-shot off, with the frame cleared and capture disabled
(41_capture R74, 42_frame R83). -/
theorem Inv.ended (h : Inv s) {p : Phase} (hp : p = .idle ∨ p = .ready ∧ s.osArmed = false) (pol : Polarity) :
    Inv { s with phase := p, acc := 0, cnt := 0, capEn := false, capEdge := pol } := by
  have hcapture : isCapture p = false := by rcases hp with rfl | ⟨rfl, -⟩ <;> rfl
  have hstart : p ≠ .start := by rcases hp with rfl | ⟨rfl, -⟩ <;> nofun
  refine .of_not_capture hcapture rfl rfl rfl (fun hs => absurd hs hstart) (fun ha => ?_) h.never_high
  rcases hp with rfl | ⟨-, hoff⟩
  · exact ⟨.inr rfl, (h.armed_line ha).2⟩
  · exact absurd ha (by simp [hoff])

theorem Inv.idleEntry (h : Inv s) (c : IdleCause) : Inv (idleEntry c s) :=
  (h.ended (.inl rfl) s.capEdge).of_unrelated ..

/-- A row of the phase table that appends no bit: the frame stays empty up to WaitData, and the polarity is the one that
item 7 asks for in the new phase. -/
theorem Inv.forward (h : Inv s) {p q : Phase} {i : Int} {pol : Polarity} (hs : s.phase = p) (hf : Forward p i q pol) :
    Inv { s with phase := q, capEdge := pol } := by
  have hp : isCapture s.phase = true := by rw [hs]; cases hf <;> rfl
  have hq : isCapture q = true := by cases hf <;> rfl
  refine .of_capture hq h.cnt_lt h.acc_lt (fun hw hd => ?_) (h.capEn_iff.mpr hp) (h.capture_line hp) ?_ ?_
  · exact h.empty (by cases hf <;> simp_all) (by cases hf <;> simp_all)
  · cases hf <;> simp
  · cases hf <;> simp

theorem ReadsBit.lt_two {i : Int} {b : Nat} (h : ReadsBit i b) : b < 2 := by cases h <;> decide

/-- Before the 40th bit, appending one keeps item 1: ACC < 2^CNT gives 2·ACC + b < 2^(CNT + 1). -/
theorem Inv.bit (h : Inv s) {b : Nat} (hb : b < 2) (hp : s.phase = .data) (hc : s.cnt.toNat ≠ 39) :
    Inv { s with phase := .waitData, capEdge := .positive, acc := nextAcc s b, cnt := s.cnt + 1 } := by
  have hlt := h.cnt_lt
  have hcapture : isCapture s.phase = true := by rw [hp]; rfl
  have hcnt : (s.cnt + 1).toNat = s.cnt.toNat + 1 := by
    simp only [BitVec.toNat_add, BitVec.ofNat_eq_ofNat, BitVec.toNat_ofNat]
    omega
  have hacc : (nextAcc s b).toNat < 2 ^ (s.cnt.toNat + 1) := by
    have := h.acc_lt
    calc (nextAcc s b).toNat ≤ 2 * s.acc.toNat + b := by simpa [nextAcc] using Nat.mod_le _ _
      _ < 2 ^ (s.cnt.toNat + 1) := by rw [Nat.pow_succ]; omega
  refine .of_capture rfl ?_ ?_ (fun hw => absurd rfl hw) (h.capEn_iff.mpr hcapture) (h.capture_line hcapture) nofun
    (fun _ => rfl)
  · show (s.cnt + 1).toNat < 40
    omega
  · show (nextAcc s b).toNat < 2 ^ (s.cnt + 1).toNat
    rwa [hcnt]

theorem Inv.edge (h : Inv s) {x : Tick} {t : State} (ho : EdgeOutcome x s t) : Inv t := by
  cases ho with
  | noEffect => exact h
  | forward q pol he hf => exact (h.forward rfl hf).of_unrelated ..
  | violation he => exact (h.ended (.inl rfl) s.capEdge).of_unrelated ..
  | bit b he hp hr hc => exact (h.bit hr.lt_two hp hc).of_unrelated ..
  | publish b he => exact (h.ended (.inr ⟨rfl, h.osArmed_eq_false he⟩) .positive).of_unrelated ..
  | mismatch b he => exact (h.ended (.inl rfl) .positive).of_unrelated ..

theorem Inv.exec (h : Inv s) {i : Instr} {t : State} (ht : exec i s = .next t) : Inv t := by
  cases exec_effect ht with
  | outputsOnly => exact h.of_unrelated ..
  | acquisitionBegun hp => exact h.clearOutputs.beginAcquisition hp
  | consumed hi c r => exact (h.clearOutputs.respond r).idleEntry c
  | captureBegun x hp => exact h.clearOutputs.beginCapture x hp
  | disarmed x hp => exact h.clearOutputs.disarmOneShot hp
  | edge x ho => exact h.clearOutputs.edge ho

end

/-- Settles O36: taking the input touches no register, and reset and every instruction keep the invariants. -/
theorem stepKeepsInvariants : Obligations.StepKeepsInvariants := by
  intro s t h hstep
  rcases step_next_cases hstep with ⟨-, rfl⟩ | ⟨rest, -, rfl⟩ | ⟨w, rest, i, -, -, hexec⟩
  · exact h.clearOutputs
  · exact .applyReset _
  · have htaken : Inv { s with pending := rest } := h.of_unrelated ..
    exact htaken.exec hexec

end Sys2Proof.Machine
end

section
/-! Which instruction may write which register (spec/10_state.md R18, R23, R25, R26, R29 item 8). -/

namespace Sys2Proof.Machine

/-- Settles O37: by the six effects; the moves of an EDGE are those of its outcomes. -/
theorem phaseMovesOnlyAsListed : Obligations.PhaseMovesOnlyAsListed := by
  intro i s t h hne
  cases exec_effect h with
  | outputsOnly => exact absurd rfl hne
  | acquisitionBegun hp => exact .inl ⟨rfl, (isStartable_iff _).mp hp, rfl⟩
  | consumed hi => exact .inr (.inr (.inl ⟨hi, rfl⟩))
  | captureBegun x hp => exact .inr (.inl ⟨⟨x, rfl⟩, hp, rfl⟩)
  | disarmed => exact absurd rfl hne
  | edge x ho => exact .inr (.inr (.inr ⟨⟨x, rfl⟩, ho.edgeMove hne⟩))

/-- Settles O39: `beginCapture` alone sets CAP_EN; a read clears it into Idle, an EDGE into Idle or Ready. -/
theorem captureEnabledOnlyByDelay : Obligations.CaptureEnabledOnlyByDelay := by
  intro i s t h
  cases exec_effect h with
  | outputsOnly | acquisitionBegun | disarmed =>
    exact ⟨fun h0 h1 => absurd (h0.symm.trans h1) nofun, fun h1 h0 => absurd (h0.symm.trans h1) nofun⟩
  | consumed => exact ⟨nofun, fun _ _ => .inl rfl⟩
  | captureBegun x hp => exact ⟨fun _ _ => ⟨⟨x, rfl⟩, hp, rfl⟩, nofun⟩
  | edge x ho =>
    refine ⟨fun h0 h1 => ?_, ho.startable_of_capEn_cleared⟩
    obtain rfl := ho.eq_of_not_enabled h0
    exact absurd (h0.symm.trans h1) nofun

/-- Settles O40: only `beginAcquisition`, `beginCapture` and `disarmOneShot` write OS_ARMED; the instructions that
change no register are, among START and DELAY, the START not accepted and the DELAY with the one-shot already off. -/
theorem oneShotWrittenOnlyByStartAndDelay : Obligations.OneShotWrittenOnlyByStartAndDelay := by
  intro i s t h
  cases exec_effect h with
  | outputsOnly r hstart hdelay =>
    exact ⟨fun hi => by simp [hstart hi], fun ⟨x, hi⟩ => hdelay x hi, fun _ _ => rfl⟩
  | acquisitionBegun hp => exact ⟨fun _ => by simp [hp, beginAcquisition_eq], nofun, fun hi => absurd rfl hi⟩
  | consumed hi => rcases hi with rfl | rfl <;> exact ⟨nofun, nofun, fun _ _ => rfl⟩
  | captureBegun x | disarmed x => exact ⟨nofun, fun _ => rfl, fun _ hi => absurd rfl (hi x)⟩
  | edge x ho => exact ⟨nofun, nofun, fun _ _ => ho.osArmed_eq⟩

/-- Settles O41: only `beginAcquisition` and `beginCapture` write the line's registers. -/
theorem lineConfiguredOnlyByStartAndDelay : Obligations.LineConfiguredOnlyByStartAndDelay := by
  intro i s t h
  cases exec_effect h with
  | outputsOnly | consumed | disarmed => exact .inl ⟨rfl, rfl, rfl⟩
  | acquisitionBegun => exact .inr (.inl ⟨rfl, rfl, rfl, rfl, rfl⟩)
  | captureBegun x hp => exact .inr (.inr ⟨⟨x, rfl⟩, hp, rfl, rfl, rfl⟩)
  | edge x ho => exact .inl ho.line_eq

/-- Settles O47: an armed one-shot means Start or Idle before the step; from Start only a read leads to Idle, since an
EDGE has no effect while the one-shot is armed (item 6). -/
theorem staleCallbackOnlyAfterReadInStart : Obligations.StaleCallbackOnlyAfterReadInStart := by
  intro i s t hinv h hidle harmed
  cases exec_effect h with
  | outputsOnly => exact .inl ⟨hidle, harmed⟩
  | acquisitionBegun => exact nomatch hidle
  | consumed hi =>
    obtain ⟨hp | hp, -⟩ := hinv.armed_line harmed
    · exact .inr ⟨hp, hi⟩
    · exact .inl ⟨hp, harmed⟩
  | captureBegun => exact nomatch hidle
  | disarmed => exact nomatch harmed
  | edge x ho =>
    have hbefore : s.osArmed = true := ho.osArmed_eq.symm.trans harmed
    have hoff : s.capEn = false := Bool.eq_false_iff.mpr fun he => hinv.exclusive ⟨hbefore, he⟩
    obtain rfl := ho.eq_of_not_enabled hoff
    exact .inl ⟨hidle, hbefore⟩

end Sys2Proof.Machine
end

section
/-! Runs of a block with other values in registers it does not read (spec/10_state.md R19, R24, R26). -/

namespace Sys2Proof.Machine

/-- Two choices on the same condition are related where their branches are. -/
theorem rel_ite {R : State → State → Prop} (c : Prop) [Decidable c] {s s' u u' : State} (h : R s u) (h' : R s' u') :
    R (if c then s else s') (if c then u else u') := by
  split
  · exact h
  · exact h'

/-! ## The line and the polarity -/

/-- The two states differ at most in CAP_EDGE, LINE_DIR, LINE_LVL and LINE_PU. -/
def SameButLine (s u : State) : Prop :=
  ∃ c d l p, u = { s with capEdge := c, lineDir := d, lineLvl := l, linePu := p }

section
variable {s u : State}

theorem SameButLine.clearOutputs (h : SameButLine s u) : SameButLine s.clearOutputs u.clearOutputs := by
  obtain ⟨c, d, l, p, rfl⟩ := h
  exact ⟨c, d, l, p, rfl⟩

theorem SameButLine.respond (h : SameButLine s u) (r : Response) : SameButLine (s.respond r) (u.respond r) := by
  obtain ⟨c, d, l, p, rfl⟩ := h
  exact ⟨c, d, l, p, rfl⟩

theorem SameButLine.idleEntry (h : SameButLine s u) (c : IdleCause) : SameButLine (idleEntry c s) (idleEntry c u) := by
  obtain ⟨e, d, l, p, rfl⟩ := h
  exact ⟨e, d, l, p, rfl⟩

theorem SameButLine.advance (h : SameButLine s u) (q : Phase) (pol : Polarity) :
    SameButLine (advance q pol s) (advance q pol u) := by
  obtain ⟨c, d, l, p, rfl⟩ := h
  exact ⟨pol, d, l, p, rfl⟩

theorem SameButLine.acceptBit (h : SameButLine s u) (b : BitVec 1) : SameButLine (acceptBit b s) (acceptBit b u) := by
  obtain ⟨c, d, l, p, rfl⟩ := h
  exact rel_ite _ (rel_ite _ ⟨.positive, d, l, p, rfl⟩ ⟨.positive, d, l, p, rfl⟩) ⟨.positive, d, l, p, rfl⟩

theorem SameButLine.edgeRow (h : SameButLine s u) (i : Int) : SameButLine (edgeRow i s) (edgeRow i u) := by
  have hphase : u.phase = s.phase := by
    obtain ⟨c, d, l, p, rfl⟩ := h
    rfl
  unfold Machine.edgeRow
  rw [hphase]
  cases s.phase with
  | idle | start | ready => exact h
  | waitAck => exact h.advance ..
  | ack | waitDataStart | waitData => exact rel_ite _ (h.advance ..) (h.idleEntry _)
  | data =>
    cases classify .data i with
    | matchesShort | matchesLong => exact h.acceptBit _
    | matchesAck | matchesStartGap | noMatch => exact h.idleEntry _

theorem SameButLine.edgeEffect (h : SameButLine s u) (x : Tick) : SameButLine (edgeEffect x s) (edgeEffect x u) := by
  obtain ⟨c, d, l, p, rfl⟩ := h
  exact rel_ite _ (SameButLine.edgeRow ⟨c, d, l, p, rfl⟩ _) ⟨c, d, l, p, rfl⟩

/-- The same instruction on both states: the next states again differ at most in the line and the polarity. -/
theorem SameButLine.exec (h : SameButLine s u) {i : Instr} {t : State} (ht : exec i s = .next t) :
    ∃ v, exec i u = .next v ∧ SameButLine t v := by
  have hc := h.clearOutputs
  cases i with
  | start =>
    rw [exec_start] at ht
    cases ht
    obtain ⟨c, d, l, p, rfl⟩ := h
    exact ⟨_, exec_start _, rel_ite _ ⟨c, .output, .low, p, rfl⟩ hc⟩
  | status | classify =>
    cases ht
    obtain ⟨c, d, l, p, rfl⟩ := h
    exact ⟨_, rfl, hc.respond _⟩
  | readTemp | readHum =>
    cases ht
    obtain ⟨c, d, l, p, rfl⟩ := h
    exact ⟨_, rfl, (hc.respond _).idleEntry _⟩
  | delay x =>
    rw [exec_delay] at ht
    cases ht
    obtain ⟨c, d, l, p, rfl⟩ := h
    exact ⟨_, exec_delay x _, rel_ite _ hc (rel_ite _ ⟨.negative, .input, l, true, rfl⟩ ⟨c, d, l, p, rfl⟩)⟩
  | edge x =>
    cases ht
    exact ⟨_, rfl, hc.edgeEffect x⟩

end

/-- Settles O44: `SameButLine` is kept by every instruction. -/
theorem lineAndPolarityAreNeverRead : Obligations.LineAndPolarityAreNeverRead := by
  intro i s t c d l p h
  obtain ⟨_, hv, c', d', l', p', rfl⟩ := SameButLine.exec ⟨c, d, l, p, rfl⟩ h
  exact ⟨c', d', l', p', hv⟩

/-! ## EDGE_TS outside the capture phases -/

/-- The two states differ at most in EDGE_TS, and not even there in a capture phase. -/
def SameButDeadTimestamp (s u : State) : Prop :=
  ∃ e, u = { s with edgeTs := e } ∧ (isCapture s.phase = true → e = s.edgeTs)

/-- A simulation of one step is one of every run: `u` answers with a state related to `s`'s, and refuses as `s` does. -/
theorem run_simulates (R : State → State → Prop)
    (hnext : ∀ s u t, R s u → step s = .next t → ∃ v, step u = .next v ∧ R t v)
    (hrefused : ∀ s u r, R s u → step s = .refused r → step u = .refused r) (k : Nat) :
    ∀ s u, R s u → (∀ t, run k s = .next t → ∃ v, run k u = .next v ∧ R t v) ∧
      (∀ r, run k s = .refused r → run k u = .refused r) := by
  induction k with
  | zero =>
    intro s u h
    simp only [run_zero]
    refine ⟨fun t ht => ?_, fun r hr => ?_⟩
    · cases ht
      exact ⟨u, rfl, h⟩
    · cases hr
  | succ k ih =>
    intro s u h
    cases hs : step s with
    | next s' =>
      obtain ⟨u', hu, h'⟩ := hnext s u s' h hs
      rw [run_succ_of_next k hs, run_succ_of_next k hu]
      exact ih s' u' h'
    | fault r => exact nomatch r
    | refused r =>
      rw [run_succ_of_refused k hs, run_succ_of_refused k (hrefused s u r h hs)]
      refine ⟨fun t ht => ?_, fun r' hr => hr⟩
      cases ht

section
variable {s u : State}

theorem SameButDeadTimestamp.eq_of_capture (h : SameButDeadTimestamp s u) (hp : isCapture s.phase = true) : u = s := by
  obtain ⟨e, rfl, he⟩ := h
  rw [he hp]

theorem SameButDeadTimestamp.refl (s : State) : SameButDeadTimestamp s s := ⟨s.edgeTs, rfl, fun _ => rfl⟩

theorem SameButDeadTimestamp.of_not_capture (hp : isCapture s.phase = false) (e : Tick) :
    SameButDeadTimestamp s { s with edgeTs := e } := ⟨e, rfl, fun hc => by simp [hp] at hc⟩

theorem SameButDeadTimestamp.clearOutputs (h : SameButDeadTimestamp s u) :
    SameButDeadTimestamp s.clearOutputs u.clearOutputs := by
  obtain ⟨e, rfl, he⟩ := h
  exact ⟨e, rfl, he⟩

/-- 41_capture R67, by the phase. -/
theorem edgeEffect_clearOutputs_of_not_capture {s : State} (hp : isCapture s.phase = false) (x : Tick) :
    edgeEffect x s.clearOutputs = s.clearOutputs :=
  if_neg fun h => by simp [hp] at h

/-- The same instruction on both states. In a capture phase they are equal; outside, only the DELAY of Start touches
EDGE_TS, and it writes it. -/
theorem SameButDeadTimestamp.exec (h : SameButDeadTimestamp s u) {i : Instr} {t : State} (ht : exec i s = .next t) :
    ∃ v, exec i u = .next v ∧ SameButDeadTimestamp t v := by
  cases hp : isCapture s.phase with
  | true =>
    rw [h.eq_of_capture hp]
    exact ⟨t, ht, .refl t⟩
  | false =>
    have hc := h.clearOutputs
    obtain ⟨e, rfl, -⟩ := h
    cases i with
    | start =>
      rw [exec_start] at ht
      cases ht
      exact ⟨_, exec_start _, rel_ite _ ⟨e, rfl, nofun⟩ hc⟩
    | status | classify =>
      cases ht
      exact ⟨_, rfl, .of_not_capture (s := s.clearOutputs.respond _) hp e⟩
    | readTemp | readHum =>
      cases ht
      exact ⟨_, rfl, e, rfl, nofun⟩
    | delay x =>
      rw [exec_delay] at ht
      cases ht
      exact ⟨_, exec_delay x _, rel_ite _ hc
        (rel_ite _ ⟨x, rfl, fun _ => rfl⟩ (.of_not_capture (s := disarmOneShot s.clearOutputs) hp e))⟩
    | edge x =>
      cases ht
      refine ⟨_, rfl, ?_⟩
      rw [edgeEffect_clearOutputs_of_not_capture hp,
        edgeEffect_clearOutputs_of_not_capture (s := { s with edgeTs := e }) hp]
      exact hc

theorem SameButDeadTimestamp.pending_eq (h : SameButDeadTimestamp s u) : u.pending = s.pending := by
  obtain ⟨e, rfl, -⟩ := h
  rfl

theorem SameButDeadTimestamp.setPending (h : SameButDeadTimestamp s u) (rest : List Input) :
    SameButDeadTimestamp { s with pending := rest } { u with pending := rest } := by
  obtain ⟨e, rfl, he⟩ := h
  exact ⟨e, rfl, he⟩

/-- A reset takes the same draw for both states, so EDGE_TS agrees again. -/
theorem SameButDeadTimestamp.applyReset_eq (h : SameButDeadTimestamp s u) : applyReset u = applyReset s := by
  obtain ⟨e, rfl, -⟩ := h
  rfl

theorem SameButDeadTimestamp.step_next {t : State} (h : SameButDeadTimestamp s u) (ht : step s = .next t) :
    ∃ v, step u = .next v ∧ SameButDeadTimestamp t v := by
  rcases step_next_cases ht with ⟨hs, rfl⟩ | ⟨rest, hs, rfl⟩ | ⟨w, rest, i, hs, hdecode, hexec⟩
  · exact ⟨_, step_nil u (h.pending_eq.trans hs), h.clearOutputs⟩
  · refine ⟨_, step_reset u (h.pending_eq.trans hs), ?_⟩
    rw [(h.setPending rest).applyReset_eq]
    exact .refl _
  · rw [step_word_ok u (h.pending_eq.trans hs) hdecode]
    exact (h.setPending rest).exec hexec

theorem SameButDeadTimestamp.step_refused {r : Refusal} (h : SameButDeadTimestamp s u) (hr : step s = .refused r) :
    step u = .refused r := by
  obtain ⟨w, rest, reason, hs, hdecode, rfl⟩ := step_refused_cases hr
  exact step_word_error u (h.pending_eq.trans hs) hdecode

end

/-- Settles O43: the relation holds at the start, where EDGE_TS is dead, and every step keeps it. -/
theorem deadTimestampIsUnobservable : Obligations.DeadTimestampIsUnobservable := by
  intro k s e hp
  obtain ⟨hnext, hrefused⟩ := run_simulates SameButDeadTimestamp
    (fun _ _ _ h => h.step_next) (fun _ _ _ h => h.step_refused) k s { s with edgeTs := e } (.of_not_capture hp e)
  refine ⟨fun t ht => ?_, hrefused⟩
  obtain ⟨_, hv, e', rfl, he'⟩ := hnext t ht
  exact ⟨e', hv, he'⟩

end Sys2Proof.Machine
end

section
/-! Repeated reads and probes (spec/20_memory.md R38). -/

namespace Sys2Proof.Machine

theorem exec_status (s : State) :
    exec .status s = .next (s.clearOutputs.respond (.status (statusOf s.phase).code)) := rfl

theorem exec_classify (p : Phase) (iv : Int) (s : State) :
    exec (.classify p iv) s = .next (s.clearOutputs.respond (.classification (classify p iv).code)) := rfl

theorem exec_readTemp (s : State) :
    exec .readTemp s = .next (idleEntry (.consumed s.phase) (s.clearOutputs.respond (temperatureResponse s))) := rfl

theorem exec_readHum (s : State) :
    exec .readHum s = .next (idleEntry (.consumed s.phase) (s.clearOutputs.respond (humidityResponse s))) := rfl

/-- 44_facade R94: in Idle, STATUS answers Idle. -/
theorem exec_status_of_idle {s : State} (hp : s.phase = .idle) :
    exec .status s = .next (s.clearOutputs.respond (.status 0)) := by
  rw [exec_status, hp]
  rfl

/-- A read answers from the Reading alone, which no read writes. -/
theorem temperatureResponse_after_read (c : IdleCause) (r : Response) (s : State) :
    temperatureResponse (idleEntry c (s.clearOutputs.respond r)) = temperatureResponse s := rfl

theorem humidityResponse_after_read (c : IdleCause) (r : Response) (s : State) :
    humidityResponse (idleEntry c (s.clearOutputs.respond r)) = humidityResponse s := rfl

/-- What the two reads share: each answers a value that IdleEntry does not change, so a second one answers it again;
STATUS answers Idle after the first, whatever the phase was before. -/
theorem read_repeats_response {i : Instr} {value : State → Response}
    (hexec : ∀ s, exec i s = .next (idleEntry (.consumed s.phase) (s.clearOutputs.respond (value s))))
    (hvalue : ∀ c r s, value (idleEntry c (s.clearOutputs.respond r)) = value s) (s : State) :
    ∃ t u v, exec i s = .next t ∧ t.phase = .idle ∧ exec i t = .next u ∧ u.resp = t.resp ∧
      t.rdHum = s.rdHum ∧ t.rdTSign = s.rdTSign ∧ t.rdTMag = s.rdTMag ∧
      exec .status t = .next v ∧ v.resp = some (.status 0) := by
  refine ⟨_, _, _, hexec s, rfl, hexec _, ?_, rfl, rfl, rfl, exec_status_of_idle rfl, rfl⟩
  exact congrArg some (hvalue _ _ s)

/-- What STATUS and CLASSIFY share: each writes the outputs of the step only, and its value does not depend on them, so
the state it leaves is a fixed point. -/
theorem probe_repeats_next {i : Instr} {value : State → Response}
    (hexec : ∀ s, exec i s = .next (s.clearOutputs.respond (value s)))
    (hvalue : ∀ r s, value (s.clearOutputs.respond r) = value s) (s : State) :
    ∃ t, exec i s = .next t ∧ t = { s with resp := t.resp, acts := [] } ∧ exec i t = .next t := by
  refine ⟨_, hexec s, rfl, ?_⟩
  rw [hexec, hvalue]
  rfl

/-- Settles O20: the responses of the reads depend on the Reading alone, that of STATUS on PHASE alone and that of
CLASSIFY on its operands alone. -/
theorem readsAreIdempotentInValueOnly : Obligations.ReadsAreIdempotentInValueOnly := by
  refine ⟨?_, ?_⟩
  · rintro i s (rfl | rfl)
    · exact read_repeats_response exec_readTemp temperatureResponse_after_read s
    · exact read_repeats_response exec_readHum humidityResponse_after_read s
  · rintro i s (rfl | ⟨p, iv, rfl⟩)
    · exact probe_repeats_next exec_status (fun _ _ => rfl) s
    · exact probe_repeats_next (exec_classify p iv) (fun _ _ => rfl) s

end Sys2Proof.Machine
end

section
/-! The decoder and the encoder as inverses of each other (spec/30_encoding.md R46 to R52, R56). -/

namespace Sys2Proof

/-! ## The conditions of 30_encoding R49 in arithmetic -/

theorem rsvField_eq_zero_iff (w : Word) : rsvField w = 0 ↔ w.toNat / 2 ^ 19 % 2 = 0 := by
  rw [← BitVec.toNat_inj, rsvField_toNat]
  rfl

theorem phField_eq_zero_iff (w : Word) : phField w = 0 ↔ w.toNat / 2 ^ 16 % 8 = 0 := by
  rw [← BitVec.toNat_inj, phField_toNat]
  rfl

theorem plField_eq_zero_iff (w : Word) : plField w = 0 ↔ w.toNat % 2 ^ 16 = 0 := by
  rw [← BitVec.toNat_inj, plField_toNat]
  rfl

/-! One lemma per reason of 30_encoding R50: the conditions before it hold, and its own fails. -/

theorem rejectReason_of_opcode {w : Word} (hop : ¬ (1 ≤ w.toNat / 2 ^ 20 ∧ w.toNat / 2 ^ 20 ≤ 7)) :
    rejectReason w = some .illegalOpcode := by
  rw [rejectReason, opField_toNat, if_pos hop]

theorem rejectReason_of_reservedBit {w : Word} (hop : 1 ≤ w.toNat / 2 ^ 20 ∧ w.toNat / 2 ^ 20 ≤ 7)
    (hrsv : w.toNat / 2 ^ 19 % 2 = 1) : rejectReason w = some .reservedBit := by
  have hbit : rsvField w ≠ 0 := fun h => by
    rw [rsvField_eq_zero_iff, hrsv] at h
    cases h
  rw [rejectReason, opField_toNat, if_neg (not_not.mpr hop), if_pos hbit]

theorem rejectReason_of_reservedField {w : Word} (hop : 1 ≤ w.toNat / 2 ^ 20 ∧ w.toNat / 2 ^ 20 ≤ 7)
    (hrsv : w.toNat / 2 ^ 19 % 2 = 0)
    (hfield : (w.toNat / 2 ^ 20 ≤ 6 ∧ w.toNat / 2 ^ 16 % 8 ≠ 0) ∨ (w.toNat / 2 ^ 20 ≤ 4 ∧ w.toNat % 2 ^ 16 ≠ 0)) :
    rejectReason w = some .reservedField := by
  rw [rejectReason, opField_toNat, if_neg (not_not.mpr hop), if_neg (not_not.mpr ((rsvField_eq_zero_iff w).mpr hrsv))]
  simp only [ne_eq, phField_eq_zero_iff, plField_eq_zero_iff]
  split
  · rfl
  case isFalse hph => exact if_pos (hfield.resolve_left hph)

/-! ## The selected operation -/

/-- The opcode map (30_encoding R48) has an operation for every code of condition 1. -/
theorem exists_selectOp {w : Word} (hop : 1 ≤ (opField w).toNat ∧ (opField w).toNat ≤ 7) :
    ∃ i, selectOp w = some i := by
  obtain ⟨hlo, hhi⟩ := hop
  unfold selectOp
  generalize (opField w).toNat = op at hlo hhi
  interval_cases op <;> exact ⟨_, rfl⟩

/-- What the selected operation keeps of the word: its opcode, PH where it is a CLASSIFY, PL where it has an operand,
and 0 in the other fields (30_encoding R47, R51, R52). -/
theorem selectOp_fields {w : Word} {i : Instr} (h : selectOp w = some i) :
    i.wf = true ∧ i.opcode = opField w ∧
      i.phBits = (if (opField w).toNat ≤ 6 then 0 else phField w) ∧
      i.plBits = (if (opField w).toNat ≤ 4 then 0 else plField w) := by
  have hcode (c : BitVec 4) (hc : (opField w).toNat = c.toNat) : c = opField w := BitVec.eq_of_toNat_eq hc.symm
  unfold selectOp at h
  split at h <;> cases h <;> rename_i hc <;> simp only [hc]
  case h_1 | h_2 | h_3 | h_4 | h_5 | h_6 => exact ⟨rfl, hcode _ hc, rfl, rfl⟩
  case h_7 =>
    refine ⟨?_, hcode _ hc, Phase.code_ofCode _, ?_⟩
    · simp [Instr.wf, sint16_range]
    · simp [Instr.plBits, sint16_eq_toInt]

/-- An operation whose fields are the word's encodes to the word. -/
theorem encode_eq_of_fields {w : Word} {i : Instr} (hop : i.opcode = opField w) (hrsv : rsvField w = 0)
    (hph : i.phBits = phField w) (hpl : i.plBits = plField w) : encode i = w := by
  calc encode i = opField w ++ (rsvField w ++ (phField w ++ plField w)) := by rw [encode, hop, hph, hpl, hrsv]; rfl
    _ = w := word_eq_fields w

/-! ## Decode and encode -/

theorem decode_of_rejectReason {w : Word} {r : Reject} (h : rejectReason w = some r) : decode w = .error r := by
  rw [decode, h]

/-- The conditions of 30_encoding R49 are all that a word has to meet. -/
theorem exists_decode_iff (w : Word) : (∃ i, decode w = .ok i) ↔ rejectReason w = none := by
  constructor
  · rintro ⟨i, h⟩
    exact ((decode_eq_ok_iff w i).mp h).1
  · intro hlegal
    obtain ⟨i, hi⟩ := exists_selectOp ((rejectReason_eq_none_iff w).mp hlegal).1
    exact ⟨i, (decode_eq_ok_iff w i).mpr ⟨hlegal, hi⟩⟩

/-- The two's-complement reading undoes the encoding of an interval that fits (30_encoding R52). -/
theorem sint16_ofInt {iv : Int} (hlo : -32768 ≤ iv) (hhi : iv ≤ 32767) : sint16 (BitVec.ofInt 16 iv) = iv := by
  rw [sint16_eq_toInt]
  exact BitVec.toInt_ofInt_eq_self (by decide) hlo (by omega)

theorem rejectReason_encode (i : Instr) : rejectReason (encode i) = none := by
  rw [rejectReason_eq_none_iff, opField_encode, rsvField_encode, phField_encode, plField_encode]
  cases i <;> simp [Instr.opcode, Instr.phBits, Instr.plBits]

theorem selectOp_encode {i : Instr} (h : i.wf = true) : selectOp (encode i) = some i := by
  rw [selectOp, opField_encode, phField_encode, plField_encode]
  cases i with
  | start | status | readTemp | readHum | delay | edge => rfl
  | classify p iv =>
    obtain ⟨hlo, hhi⟩ : -32768 ≤ iv ∧ iv ≤ 32767 := by simpa [Instr.wf] using h
    show some (Instr.classify (Phase.ofCode p.code) (sint16 (BitVec.ofInt 16 iv))) = _
    rw [Phase.ofCode_code, sint16_ofInt hlo hhi]

/-- Settles O2: an encoded instruction meets the four conditions, and its opcode selects it with the operands its
fields hold. -/
theorem decodeOfEncodeIsIdentity : Obligations.DecodeOfEncodeIsIdentity := by
  intro i hwf
  exact (decode_eq_ok_iff _ _).mpr ⟨rejectReason_encode i, selectOp_encode hwf⟩

/-- Settles O3: the fields that the selected operation does not keep are 0 by the conditions on a legal word. -/
theorem encodeOfDecodeIsIdentity : Obligations.EncodeOfDecodeIsIdentity := by
  intro w i h
  obtain ⟨hlegal, hselect⟩ := (decode_eq_ok_iff w i).mp h
  obtain ⟨-, hrsv, hph, hpl⟩ := (rejectReason_eq_none_iff w).mp hlegal
  obtain ⟨hwf, hop, hphBits, hplBits⟩ := selectOp_fields hselect
  refine ⟨hwf, encode_eq_of_fields hop hrsv ?_ ?_⟩
  · rw [hphBits]
    split
    case isTrue hc => exact (hph hc).symm
    case isFalse => rfl
  · rw [hplBits]
    split
    case isTrue hc => exact (hpl hc).symm
    case isFalse => rfl

/-- Settles O4: the conditions the decoder tests on the fields, in arithmetic. -/
theorem decodeAcceptsExactlyLegalWords : Obligations.DecodeAcceptsExactlyLegalWords := by
  intro w
  rw [exists_decode_iff, rejectReason_eq_none_iff, opField_toNat, rsvField_eq_zero_iff, phField_eq_zero_iff,
    plField_eq_zero_iff]

/-! ## Bytes -/

theorem wordOfBytes_of_word (w : Word) :
    wordOfBytes (w.extractLsb' 16 8) (w.extractLsb' 8 8) (w.extractLsb' 0 8) = w := by
  apply BitVec.eq_of_toNat_eq
  simp only [wordOfBytes, append_toNat, BitVec.extractLsb'_toNat, Nat.shiftRight_eq_div_pow]
  omega

theorem decodeBytes_bytesOfWord (w : Word) (rest : List Byte) :
    decodeBytes (bytesOfWord w ++ rest) = some (decode w, rest) := by
  show some (decode (wordOfBytes _ _ _), rest) = _
  rw [wordOfBytes_of_word]

theorem bytesOfWord_toNat (w : Word) :
    (bytesOfWord w).map BitVec.toNat = [w.toNat / 2 ^ 16, w.toNat / 2 ^ 8 % 2 ^ 8, w.toNat % 2 ^ 8] := by
  have htop : w.toNat / 2 ^ 16 % 2 ^ 8 = w.toNat / 2 ^ 16 := by omega
  simp only [bytesOfWord, List.map, BitVec.extractLsb'_toNat, Nat.shiftRight_eq_div_pow, htop, Nat.pow_zero,
    Nat.div_one]

/-- Settles O6: three bytes spell their word, which decodes to the instruction by O2. -/
theorem serialisedInstructionDecodes : Obligations.SerialisedInstructionDecodes := by
  intro i rest hwf
  rw [decodeBytes_bytesOfWord, decodeOfEncodeIsIdentity i hwf]
  exact ⟨rfl, bytesOfWord_toNat _⟩

end Sys2Proof
end

section
/-! Refusals (spec/30_encoding.md R50, spec/60_exceptions.md R103): the state a run goes on from, and the mark. -/

namespace Sys2Proof.Machine

theorem resume_of_next {s t : State} (h : step s = .next t) : resume s = t := by
  rw [resume, h]

theorem resume_of_refused {s : State} {r : Refusal} (h : step s = .refused r) :
    resume s = afterRefusal r { s with pending := s.pending.tail } := by
  rw [resume, h]

/-- Settles O5: the decoder answers the first failing condition, `step` refuses with it, and `afterRefusal` writes the
outputs and the history only. -/
theorem illFormedWordRefusedWithFirstReason : Obligations.IllFormedWordRefusedWithFirstReason := by
  intro s w rest r hpending hfails
  have hreason : rejectReason w = some r := by
    rcases hfails with ⟨rfl, hop⟩ | ⟨rfl, hop, hrsv⟩ | ⟨rfl, hop, hrsv, hfield⟩
    · exact rejectReason_of_opcode hop
    · exact rejectReason_of_reservedBit hop hrsv
    · exact rejectReason_of_reservedField hop hrsv hfield
  have hstep := step_word_error s hpending (decode_of_rejectReason hreason)
  refine ⟨hstep, ?_⟩
  rw [resume_of_refused hstep, hpending]
  rfl

/-! ## The history only grows -/

theorem EdgeOutcome.history_prefix {x : Tick} {s t : State} (h : EdgeOutcome x s t) : s.history <+: t.history := by
  cases h with
  | noEffect | forward | bit => exact List.prefix_rfl
  | violation | publish | mismatch => exact List.prefix_append ..

theorem exec_history_prefix {i : Instr} {s t : State} (h : exec i s = .next t) : s.history <+: t.history := by
  cases exec_effect h with
  | outputsOnly | acquisitionBegun | captureBegun | disarmed => exact List.prefix_rfl
  | consumed => exact List.prefix_append ..
  | edge x ho => exact ho.history_prefix

/-- No step, refusal or reset takes an event back (log 4). -/
theorem resume_history_prefix (s : State) : s.history <+: (resume s).history := by
  cases hs : step s with
  | next t =>
    rw [resume_of_next hs]
    rcases step_next_cases hs with ⟨-, rfl⟩ | ⟨rest, -, rfl⟩ | ⟨w, rest, i, -, -, hexec⟩
    · exact List.prefix_rfl
    · exact List.prefix_rfl
    · exact exec_history_prefix (s := { s with pending := rest }) hexec
  | fault r => exact nomatch r
  | refused r =>
    rw [resume_of_refused hs]
    exact List.prefix_append ..

theorem refusalMark_of_prefix {s t : State} (h : s.history <+: t.history) (hs : refusalMark s = true) :
    refusalMark t = true := by
  obtain ⟨e, he, hrefused⟩ := List.any_eq_true.mp hs
  exact List.any_eq_true.mpr ⟨e, h.subset he, hrefused⟩

/-- Settles O13: the mark is read off the history, which only grows. -/
theorem refusalMarkLastsTheRun : Obligations.RefusalMarkLastsTheRun := by
  intro s hmark
  exact refusalMark_of_prefix (resume_history_prefix s) hmark

end Sys2Proof.Machine
end

section
/-! The timing that `FRAME v` stands for (spec/30_encoding.md R58, R59). -/

namespace Sys2Proof.Machine

/-- The timing of `BIT b` (30_encoding R59). -/
def nominalBit (b : Bool) : BitTiming := { low := 100, high := if b then 140 else 54 }

/-- The timing of `FRAME v`: that of `ACK`, then one `BIT` per bit, most significant first (30_encoding R59). -/
def nominalFrame (v : Frame) : FrameTiming :=
  { latency := 60, ackLow := 160, ackHigh := 160, bits := (frameBitList v).map nominalBit }

theorem nominalBit_sends (b : Bool) : (nominalBit b).Sends b := by
  unfold BitTiming.Sends
  cases b <;> decide

theorem nominalBit_gaps (b : Bool) :
    [(nominalBit b).low, (nominalBit b).high].map (BitVec.ofNat 16) = bitGaps b := by
  cases b <;> rfl

/-- The gaps `FRAME v` writes are those of its timing. -/
theorem nominalFrame_gaps (v : Frame) : (nominalFrame v).gaps = frameGaps v := by
  simp only [FrameTiming.gaps, nominalFrame, frameGaps, List.map_append, List.map_flatMap, List.flatMap_map,
    nominalBit_gaps]
  rfl

theorem frameBitList_length (v : Frame) : (frameBitList v).length = 40 := by
  simp [frameBitList]

theorem frameBitList_getElem? {v : Frame} {k : Nat} {b : Bool} (h : (frameBitList v)[k]? = some b) :
    v.getMsbD k = b := by
  simp only [frameBitList, List.getElem?_map, Option.map_eq_some_iff] at h
  obtain ⟨j, hj, hb⟩ := h
  obtain ⟨_, rfl⟩ := List.getElem?_eq_some_iff.mp hj
  simpa using hb

theorem nominalFrame_carries (v : Frame) : (nominalFrame v).Carries v := by
  have hack : 55 ≤ 160 / 2 ∧ 160 / 2 ≤ 105 := by decide
  refine ⟨hack, hack, ?_, fun k g hg => ?_⟩
  · rw [nominalFrame, List.length_map, frameBitList_length]
  · rw [nominalFrame, List.getElem?_map, Option.map_eq_some_iff] at hg
    obtain ⟨b, hb, rfl⟩ := hg
    rw [frameBitList_getElem? hb]
    exact nominalBit_sends b

theorem edgesFrom_length (clock : Tick) (ds : List Tick) : (edgesFrom clock ds).length = ds.length := by
  induction ds generalizing clock with
  | nil => rfl
  | cons d ds ih => exact congrArg (· + 1) (ih (clock + d))

/-- Three gaps for the acknowledgement and two for each bit. -/
theorem frameGaps_length (v : Frame) : (frameGaps v).length = 83 := by
  have hbit : ∀ b, (bitGaps b).length = 2 := fun _ => rfl
  simp [frameGaps, ackGaps, List.length_flatMap, hbit, frameBitList_length]

/-- Settles O7: the timing is the nominal one of 30_encoding R59. -/
theorem framePseudoOperationSendsItsFrame : Obligations.FramePseudoOperationSendsItsFrame := by
  intro clock v
  refine ⟨?_, nominalFrame v, nominalFrame_carries v, ?_⟩
  · rw [expandLine, edgesFrom_length, frameGaps_length]
  · rw [expandLine, nominalFrame_gaps]

end Sys2Proof.Machine
end

section
/-! The classifier and its probe (spec/40_classifier.md R60 to R64), and an EDGE outside its phase's window (R65). -/

namespace Sys2Proof.Machine

/-! ## Intervals -/

/-- The interval depends on the gap alone, whatever the first tick (40_classifier R60). -/
theorem interval_add (prev d : Tick) : interval (prev + d) prev = (sint16 d).tdiv 2 := by
  rw [interval, BitVec.add_comm, BitVec.add_sub_cancel, halve]

/-- Settles O21: the first tick cancels, and 16 bits hold the gap mod 2^16. -/
theorem intervalMeasuresGapModuloWrap : Obligations.IntervalMeasuresGapModuloWrap := by
  intro prev g
  refine ⟨?_, interval_range _ _⟩
  rw [interval_add, sint16, BitVec.toNat_ofNat]
  rfl

/-! ## Windows and class codes -/

/-- The phases without a window (40_classifier R63). -/
theorem classify_of_no_window {p : Phase} (hp : p = .idle ∨ p = .start ∨ p = .waitAck ∨ p = .ready) (i : Int) :
    classify p i = .noMatch := by
  rcases hp with rfl | rfl | rfl | rfl <;> rfl

/-- Settles O22: in each phase the tests of the other phases' windows drop out of the chain. -/
theorem classifierTestsItsPhaseWindows : Obligations.ClassifierTestsItsPhaseWindows := by
  intro p i
  cases p with
  | idle | start | waitAck | ready =>
    rw [classify_of_no_window (by decide)]
    simp
  | ack | waitDataStart => simp [classify, Config.nomAck]
  | waitData => simp [classify, Config.nomGap]
  | data => simp [classify, Config.nomShort, Config.nomLong]

/-- Settles O23: the response is the code of the phase's class, and `respond` writes no register. -/
theorem classifyAnswersWindowCode : Obligations.ClassifyAnswersWindowCode := by
  intro p iv s c hc
  suffices hcode : (classify p iv).code = c by rw [exec_classify, hcode, State.respond_eq, State.clearOutputs_eq]
  rcases hc with ⟨rfl | rfl, rfl⟩ | ⟨rfl, rfl⟩ | ⟨rfl, rfl⟩ | ⟨hp, rfl⟩
  · rw [classify_ack, apply_ite Class.code]
    rfl
  · rw [classify_waitDataStart, apply_ite Class.code]
    rfl
  · rw [classify_waitData, apply_ite Class.code]
    rfl
  · rw [classify_data, apply_ite Class.code, apply_ite Class.code]
    rfl
  · rw [classify_of_no_window hp]
    rfl

/-! ## An EDGE outside the window -/

section
variable {x : Tick} {s t : State} {p q : Phase} {i : Int} {pol : Polarity} {b : Nat}

theorem Violates.isCapture_eq_true (h : Violates p i) : isCapture p = true := by cases h <;> rfl

theorem Violates.not_forward (h : Violates p i) : ¬ Forward p i q pol := by
  intro hf
  cases h <;> cases hf <;> contradiction

theorem Violates.not_readsBit (h : Violates p i) (hp : p = .data) : ¬ ReadsBit i b := by
  subst hp
  obtain ⟨_, hout⟩ := h
  rintro (⟨_, hin⟩ | ⟨_, hin⟩) <;> omega

/-- With capture enabled, an interval outside the window has one outcome only. -/
theorem EdgeOutcome.eq_of_violates (h : EdgeOutcome x s t) (he : s.capEn = true)
    (hv : Violates s.phase (interval x s.edgeTs)) :
    t = { s with
      phase := .idle, acc := 0, cnt := 0, capEn := false, edgeTs := x, acts := s.acts ++ [.disableCapture]
      history := s.history ++ [.idleEntered (.timingViolation s.phase (interval x s.edgeTs))] } := by
  cases h with
  | noEffect h => exact absurd ⟨he, hv.isCapture_eq_true⟩ h
  | forward _ _ _ hf => exact absurd hf hv.not_forward
  | violation => rfl
  | bit _ _ hp hr | publish _ _ hp hr | mismatch _ _ hp hr => exact absurd hr (hv.not_readsBit hp)

/-- The whole next state of a TimingViolation (41_capture R70 to R74). -/
theorem exec_edge_of_violates (he : s.capEn = true) (hv : Violates s.phase (interval x s.edgeTs)) :
    exec (.edge x) s = .next { s with
      phase := .idle, acc := 0, cnt := 0, capEn := false, edgeTs := x, resp := none, acts := [.disableCapture]
      history := s.history ++ [.idleEntered (.timingViolation s.phase (interval x s.edgeTs))] } :=
  congrArg Host.Outcome.next ((edgeEffect_outcome x s.clearOutputs).eq_of_violates he hv)

end

/-- Settles O34: each listed interval lies outside the window of its phase. -/
theorem missedCaptureAtNominalTimingAborts : Obligations.MissedCaptureAtNominalTimingAborts := by
  rintro s t i he rfl hmissed
  have hv : Violates s.phase (interval t s.edgeTs) := by
    rcases hmissed with ⟨hp, hi⟩ | ⟨hp, hi⟩ | ⟨hp, hi⟩ | ⟨hp, hi | hi⟩ <;> rw [hp, hi]
    · exact .ack _ (by decide)
    · exact .waitDataStart _ (by decide)
    · exact .waitData _ (by decide)
    · exact .data _ (by decide)
    · exact .data _ (by decide)
  exact ⟨_, exec_edge_of_violates he hv, rfl, rfl⟩

end Sys2Proof.Machine
end

section
/-! EDGE row by row (spec/41_capture.md R66 to R73): each premise leaves one outcome, and what EDGE_TS holds after every
instruction (R68). -/

namespace Sys2Proof.Machine

section
variable {x : Tick} {s t : State} {p q q' : Phase} {i : Int} {pol pol' : Polarity} {b b' : Nat}

/-! ## The accepted rows -/

theorem Forward.isCapture_eq_true (h : Forward p i q pol) : isCapture p = true := by cases h <;> rfl

theorem Forward.ne_data (h : Forward p i q pol) : p ≠ .data := by cases h <;> nofun

/-- Each row of the phase table goes on to one phase with one polarity. -/
theorem Forward.unique (h : Forward p i q pol) (h' : Forward p i q' pol') : q = q' ∧ pol = pol' := by
  cases h <;> cases h' <;> exact ⟨rfl, rfl⟩

/-- The windows of the two bits do not meet (40_classifier R62). -/
theorem ReadsBit.unique (h : ReadsBit i b) (h' : ReadsBit i b') : b = b' := by
  cases h with
  | zero h =>
    cases h' with
    | zero => rfl
    | one h' => omega
  | one h =>
    cases h' with
    | zero h' => omega
    | one => rfl

/-- The two windows of Data, as a caller states them. -/
theorem readsBit_of_window (h : (b = 0 ∧ 2 ≤ i ∧ i ≤ 52) ∨ (b = 1 ∧ 53 ≤ i ∧ i ≤ 95)) : ReadsBit i b := by
  rcases h with ⟨rfl, hshort⟩ | ⟨rfl, hlong⟩
  · exact .zero i hshort
  · exact .one i hlong

/-- With capture enabled, an interval that the phase's row accepts has one outcome only. -/
theorem EdgeOutcome.eq_of_forward (h : EdgeOutcome x s t) (he : s.capEn = true)
    (hf : Forward s.phase (interval x s.edgeTs) q pol) :
    t = { s with phase := q, capEdge := pol, edgeTs := x, acts := s.acts ++ [.setCapturePolarity pol] } := by
  cases h with
  | noEffect h => exact absurd ⟨he, hf.isCapture_eq_true⟩ h
  | forward _ _ _ hf' =>
    obtain ⟨rfl, rfl⟩ := hf.unique hf'
    rfl
  | violation _ hv => exact absurd hf hv.not_forward
  | bit _ _ hp | publish _ _ hp | mismatch _ _ hp => exact absurd hp hf.ne_data

/-- With capture enabled in Data, a bit before the 40th has one outcome only. -/
theorem EdgeOutcome.eq_of_bit (h : EdgeOutcome x s t) (he : s.capEn = true) (hp : s.phase = .data)
    (hr : ReadsBit (interval x s.edgeTs) b) (hc : s.cnt.toNat ≠ 39) :
    t = { s with
      phase := .waitData, capEdge := .positive, edgeTs := x, acc := nextAcc s b, cnt := s.cnt + 1
      acts := s.acts ++ [.setCapturePolarity .positive] } := by
  cases h with
  | noEffect h => exact absurd ⟨he, hp ▸ rfl⟩ h
  | forward _ _ _ hf => exact absurd hp hf.ne_data
  | violation _ hv => exact absurd hr (hv.not_readsBit hp)
  | bit _ _ _ hr' =>
    obtain rfl := hr.unique hr'
    rfl
  | publish _ _ _ _ hc' | mismatch _ _ _ _ hc' => exact absurd hc' hc

/-- The whole next state of an accepted row that appends no bit (41_capture R69 to R72). -/
theorem exec_edge_of_forward (he : s.capEn = true) (hf : Forward s.phase (interval x s.edgeTs) q pol) :
    exec (.edge x) s = .next { s with
      phase := q, capEdge := pol, edgeTs := x, resp := none, acts := [.setCapturePolarity pol] } :=
  congrArg Host.Outcome.next ((edgeEffect_outcome x s.clearOutputs).eq_of_forward he hf)

/-- The whole next state of a bit before the 40th (41_capture R73). -/
theorem exec_edge_of_bit (he : s.capEn = true) (hp : s.phase = .data) (hr : ReadsBit (interval x s.edgeTs) b)
    (hc : s.cnt.toNat ≠ 39) :
    exec (.edge x) s = .next { s with
      phase := .waitData, capEdge := .positive, edgeTs := x, acc := nextAcc s b, cnt := s.cnt + 1, resp := none
      acts := [.setCapturePolarity .positive] } :=
  congrArg Host.Outcome.next ((edgeEffect_outcome x s.clearOutputs).eq_of_bit he hp hr hc)

/-! ## EDGE_TS -/

/-- 41_capture R68, R67: an effective EDGE writes its tick, any other leaves EDGE_TS. -/
theorem EdgeOutcome.edgeTs_eq (h : EdgeOutcome x s t) :
    t.edgeTs = if s.capEn = true ∧ isCapture s.phase = true then x else s.edgeTs := by
  cases h with
  | noEffect h => exact (if_neg h).symm
  | forward _ _ he hf => exact (if_pos ⟨he, hf.isCapture_eq_true⟩).symm
  | violation he hv => exact (if_pos ⟨he, hv.isCapture_eq_true⟩).symm
  | bit _ he hp | publish _ he hp | mismatch _ he hp => exact (if_pos ⟨he, hp ▸ rfl⟩).symm

/-- 43_trigger R90: only the callback of Start writes EDGE_TS. -/
theorem edgeTs_of_exec_delay (h : exec (.delay x) s = .next t) :
    t.edgeTs = if s.osArmed = true ∧ s.phase = .start then x else s.edgeTs := by
  rw [exec_delay] at h
  cases h
  by_cases ha : s.osArmed = false
  · simp [ha]
  · by_cases hp : s.phase = .start
    · simp [ha, hp, beginCapture_eq]
    · simp [ha, hp, disarmOneShot_eq]

end

/-- Settles O42: an EDGE by its outcomes, a DELAY by its branches; no operation that another instruction runs writes
EDGE_TS. -/
theorem edgeTimestampHoldsLastTick : Obligations.EdgeTimestampHoldsLastTick := by
  intro i s t h
  refine ⟨?_, ?_, fun hedge hdelay => ?_⟩
  · rintro x rfl
    cases h
    exact (edgeEffect_outcome x s.clearOutputs).edgeTs_eq
  · rintro x rfl
    exact edgeTs_of_exec_delay h
  · cases exec_effect h with
    | outputsOnly | acquisitionBegun | consumed => rfl
    | captureBegun x | disarmed x => exact absurd rfl (hdelay x)
    | edge x => exact absurd rfl (hedge x)

/-! ## The rows -/

/-- Settles O24: the guard of `edgeEffect` fails on CAP_EN or on the phase. -/
theorem edgeOutsideCaptureHasNoEffect : Obligations.EdgeOutsideCaptureHasNoEffect := by
  intro s t hoff
  suffices hsame : edgeEffect t s.clearOutputs = s.clearOutputs from congrArg Host.Outcome.next hsame
  rcases hoff with he | hp | hp | hp
  · exact (edgeEffect_outcome t s.clearOutputs).eq_of_not_enabled he
  all_goals exact edgeEffect_clearOutputs_of_not_capture (hp ▸ rfl) t

/-- Settles O25: the row of WaitAck accepts every interval. -/
theorem edgeInWaitAckIsAlwaysAccepted : Obligations.EdgeInWaitAckIsAlwaysAccepted :=
  fun _ _ he hp => exec_edge_of_forward he (hp ▸ .waitAck _)

/-- Settles O26: in Ack an interval is `Forward` inside the phase's window and `Violates` outside it. -/
theorem edgeInAckChecksEightyMicroseconds : Obligations.EdgeInAckChecksEightyMicroseconds := by
  rintro s t i he hp rfl
  exact ⟨fun hin => exec_edge_of_forward he (hp ▸ .ack _ hin),
    fun hout => hp ▸ exec_edge_of_violates he (hp ▸ .ack _ hout)⟩

/-- Settles O27: in WaitDataStart an interval is `Forward` inside the phase's window and `Violates` outside it. -/
theorem edgeInWaitDataStartChecksEightyMicroseconds : Obligations.EdgeInWaitDataStartChecksEightyMicroseconds := by
  rintro s t i he hp rfl
  exact ⟨fun hin => exec_edge_of_forward he (hp ▸ .waitDataStart _ hin),
    fun hout => hp ▸ exec_edge_of_violates he (hp ▸ .waitDataStart _ hout)⟩

/-- Settles O28: in WaitData an interval is `Forward` inside the phase's window and `Violates` outside it. -/
theorem edgeInWaitDataChecksFiftyMicroseconds : Obligations.EdgeInWaitDataChecksFiftyMicroseconds := by
  rintro s t i he hp rfl
  exact ⟨fun hin => exec_edge_of_forward he (hp ▸ .waitData _ hin),
    fun hout => hp ▸ exec_edge_of_violates he (hp ▸ .waitData _ hout)⟩

/-- Settles O29: the interval reads as the bit `b`, and in 6 bits CNT + 1 is the count mod 64. -/
theorem edgeInDataAppendsBit : Obligations.EdgeInDataAppendsBit := by
  rintro s t i b he hp rfl hc hwindow
  have hcnt : BitVec.ofNat 6 (s.cnt.toNat + 1) = s.cnt + 1 := by
    rw [BitVec.ofNat_add, BitVec.ofNat_toNat, BitVec.setWidth_eq]
    rfl
  rw [exec_edge_of_bit he hp (readsBit_of_window hwindow) hc, hcnt, nextAcc]

/-- Settles O30: outside both windows of Data the EDGE violates, whatever CNT is. -/
theorem edgeInDataRejectsOtherIntervals : Obligations.EdgeInDataRejectsOtherIntervals := by
  rintro s t i he hp rfl hout
  exact hp ▸ exec_edge_of_violates he (hp ▸ .data _ hout)

end Sys2Proof.Machine
end

section
/-! The frame (spec/42_frame.md R78 to R83, R88): the checksum, the 40th bit, and who writes the Reading. -/

namespace Sys2Proof.Machine

/-! ## The checksum -/

/-- 42_frame R80, R81 in arithmetic: the last eight bits against the sum of the four bytes before them. -/
theorem frameValid_iff (v : Frame) :
    frameValid v = true ↔
      v.toNat % 2 ^ 8 =
        (v.toNat / 2 ^ 32 + v.toNat / 2 ^ 24 % 2 ^ 8 + v.toNat / 2 ^ 16 % 2 ^ 8 + v.toNat / 2 ^ 8 % 2 ^ 8) % 256 := by
  have hlt := v.isLt
  rw [frameValid, decide_eq_true_iff, ← BitVec.toNat_inj]
  simp only [frameSum, frameHH, frameHL, frameTH, frameTL, frameCS, BitVec.toNat_add, BitVec.extractLsb'_toNat,
    Nat.shiftRight_eq_div_pow]
  omega

/-- Settles O33: dividing the concatenation by powers of 256 gives its bytes back. -/
theorem checksumIsByteSumModulo256 : Obligations.ChecksumIsByteSumModulo256 := by
  intro hh hl th tl cs
  rw [frameValid_iff]
  have hvalue : (hh ++ (hl ++ (th ++ (tl ++ cs)))).toNat =
      hh.toNat * 2 ^ 32 + hl.toNat * 2 ^ 24 + th.toNat * 2 ^ 16 + tl.toNat * 2 ^ 8 + cs.toNat := by
    simp only [append_toNat]
    omega
  generalize (hh ++ (hl ++ (th ++ (tl ++ cs)))).toNat = n at hvalue ⊢
  have hhh : n / 2 ^ 32 = hh.toNat := by omega
  have hhl : n / 2 ^ 24 % 2 ^ 8 = hl.toNat := by omega
  have hth : n / 2 ^ 16 % 2 ^ 8 = th.toNat := by omega
  have htl : n / 2 ^ 8 % 2 ^ 8 = tl.toNat := by omega
  have hcs : n % 2 ^ 8 = cs.toNat := by omega
  rw [hhh, hhl, hth, htl, hcs]

/-! ## The 40th bit -/

section
variable {x : Tick} {s t : State} {b : Nat}

/-- With capture enabled in Data, the 40th bit completes the frame, whatever the frame is (42_frame R79). -/
theorem EdgeOutcome.eq_of_fortieth (h : EdgeOutcome x s t) (he : s.capEn = true) (hp : s.phase = .data)
    (hr : ReadsBit (interval x s.edgeTs) b) (hc : s.cnt.toNat = 39) :
    t = completeFrame { s with
      phase := .waitData, capEdge := .positive, edgeTs := x, acc := nextAcc s b, cnt := s.cnt + 1
      acts := s.acts ++ [.setCapturePolarity .positive] } := by
  cases h with
  | noEffect h => exact absurd ⟨he, hp ▸ rfl⟩ h
  | forward _ _ _ hf => exact absurd hp hf.ne_data
  | violation _ hv => exact absurd hr (hv.not_readsBit hp)
  | bit _ _ _ _ hc' => exact absurd hc hc'
  | publish _ _ _ hr' _ hv =>
    obtain rfl := hr.unique hr'
    exact Eq.symm (completeFrame_of_valid _ hv)
  | mismatch _ _ _ hr' _ hv =>
    obtain rfl := hr.unique hr'
    exact Eq.symm (completeFrame_of_invalid _ hv)

theorem exec_edge_of_fortieth (he : s.capEn = true) (hp : s.phase = .data) (hr : ReadsBit (interval x s.edgeTs) b)
    (hc : s.cnt.toNat = 39) :
    exec (.edge x) s = .next (completeFrame { s with
      phase := .waitData, capEdge := .positive, edgeTs := x, acc := nextAcc s b, cnt := s.cnt + 1, resp := none
      acts := [.setCapturePolarity .positive] }) :=
  congrArg Host.Outcome.next ((edgeEffect_outcome x s.clearOutputs).eq_of_fortieth he hp hr hc)

end

/-- Settles O31: the completed frame is the one with the 40th bit in it, and `publishFrame` writes its bit ranges. -/
theorem fortiethBitPublishesValidFrame : Obligations.FortiethBitPublishesValidFrame := by
  rintro s t i b v he hp rfl hc hwindow rfl hv
  rw [exec_edge_of_fortieth he hp (readsBit_of_window hwindow) hc, completeFrame_of_valid _ hv, publishFrame_eq,
    frameHumidity_eq, frameTemperature_eq, frameTSign_eq, frameTMag_eq]
  rfl

/-- Settles O32: the completed frame is the one with the 40th bit in it, and `idleEntry` does not write the Reading. -/
theorem fortiethBitOfInvalidFrameAborts : Obligations.FortiethBitOfInvalidFrameAborts := by
  rintro s t i b v he hp rfl hc hwindow rfl hv
  rw [exec_edge_of_fortieth he hp (readsBit_of_window hwindow) hc, completeFrame_of_invalid _ hv, idleEntry_eq]
  rfl

/-! ## Who writes the Reading -/

/-- Settles O38: of the outcomes of an EDGE only `publish` writes the Reading, and of the other instructions none. -/
theorem readingWrittenOnlyByValidFrame : Obligations.ReadingWrittenOnlyByValidFrame := by
  intro i s t h
  cases exec_effect h with
  | outputsOnly | acquisitionBegun | consumed | captureBegun | disarmed => exact .inl ⟨rfl, rfl, rfl⟩
  | edge x ho =>
    cases ho with
    | noEffect | forward | violation | bit | mismatch => exact .inl ⟨rfl, rfl, rfl⟩
    | publish b he hp hr hc hv =>
      exact .inr ⟨x, b, rfl, he, hp, hc, hr.lt_two, hv, rfl, frameHumidity_eq _, frameTSign_eq _, frameTMag_eq _⟩

end Sys2Proof.Machine
end

section
/-! A whole acquisition (spec/60_exceptions.md R118): the 85 inputs of a frame bring the block to the completion of that
frame, whether its checksum is good or not. -/

namespace Sys2Proof.Machine

/-! ## What the timing says of each EDGE -/

/-- The two gaps of a bit, in ticks. -/
def BitTiming.ticks (g : BitTiming) : List Tick := [BitVec.ofNat 16 g.low, BitVec.ofNat 16 g.high]

theorem FrameTiming.gaps_eq (f : FrameTiming) :
    f.gaps = BitVec.ofNat 16 f.latency :: BitVec.ofNat 16 f.ackLow :: BitVec.ofNat 16 f.ackHigh ::
      f.bits.flatMap BitTiming.ticks := by
  simp only [FrameTiming.gaps, List.map_append, List.map_flatMap]
  rfl

/-- A gap inside the acknowledgement's window measures inside it, whatever the clock (70_reset_and_hazards R129). -/
theorem interval_of_ack {d : Nat} (h : 55 ≤ d / 2 ∧ d / 2 ≤ 105) (clock : Tick) :
    55 ≤ interval (clock + BitVec.ofNat 16 d) clock ∧ interval (clock + BitVec.ofNat 16 d) clock ≤ 105 := by
  rw [interval_add_ofNat clock (by omega)]
  omega

theorem BitTiming.Sends.forward {g : BitTiming} {b : Bool} (h : g.Sends b) (clock : Tick) :
    Forward .waitData (interval (clock + BitVec.ofNat 16 g.low) clock) .data .negative := by
  obtain ⟨hlow, -⟩ := h
  apply Forward.waitData
  rw [interval_add_ofNat clock (by omega)]
  omega

theorem BitTiming.Sends.readsBit {g : BitTiming} {b : Bool} (h : g.Sends b) (clock : Tick) :
    ReadsBit (interval (clock + BitVec.ofNat 16 g.high) clock) b.toNat := by
  obtain ⟨-, hhigh⟩ := h
  apply readsBit_of_window
  cases b with
  | false =>
    have hshort : 2 ≤ g.high / 2 ∧ g.high / 2 ≤ 52 := hhigh
    rw [interval_add_ofNat clock (by omega)]
    exact .inl ⟨rfl, by omega⟩
  | true =>
    have hlong : 53 ≤ g.high / 2 ∧ g.high / 2 ≤ 95 := hhigh
    rw [interval_add_ofNat clock (by omega)]
    exact .inr ⟨rfl, by omega⟩

/-! ## The accumulator after some of the bits -/

/-- The first `k` bits of a frame, as ACC holds them (10_state R20). -/
def framePrefix (v : Frame) (k : Nat) : Frame := BitVec.ofNat 40 (v.toNat / 2 ^ (40 - k))

theorem framePrefix_zero (v : Frame) : framePrefix v 0 = 0 := by
  rw [framePrefix, Nat.div_eq_of_lt v.isLt]
  rfl

theorem framePrefix_forty (v : Frame) : framePrefix v 40 = v := by
  simp [framePrefix]

theorem getMsbD_toNat (v : Frame) {k : Nat} (hk : k < 40) : (v.getMsbD k).toNat = v.toNat / 2 ^ (39 - k) % 2 := by
  rw [BitVec.getMsbD, decide_eq_true hk, Bool.true_and, ← BitVec.testBit_toNat, Nat.toNat_testBit]

/-- Appending the next bit gives the first `k + 1` bits (42_frame R78). -/
theorem framePrefix_succ (v : Frame) {k : Nat} (hk : k < 40) :
    BitVec.ofNat 40 (2 * (framePrefix v k).toNat + (v.getMsbD k).toNat) = framePrefix v (k + 1) := by
  have hlt := v.isLt
  have hprefix : (framePrefix v k).toNat = v.toNat / 2 ^ (39 - k) / 2 := by
    rw [framePrefix, BitVec.toNat_ofNat, Nat.div_div_eq_div_mul, ← Nat.pow_succ,
      show (39 - k).succ = 40 - k by omega]
    exact Nat.mod_eq_of_lt (Nat.lt_of_le_of_lt (Nat.div_le_self ..) hlt)
  rw [hprefix, getMsbD_toNat v hk, Nat.div_add_mod, framePrefix, show 40 - (k + 1) = 39 - k by omega]

/-! ## Steps on presented instructions -/

/-- The inputs of an acquisition's edges, from a clock on. -/
def edgeInputs (clock : Tick) (gaps : List Tick) : List Input := (edgesFrom clock gaps).map fun i => .word (encode i)

section
variable {s : State} {d : Tick} {gaps : List Tick} {rest : List Input} {p q : Phase} {pol : Polarity}

theorem step_encode {i : Instr} (h : s.pending = .word (encode i) :: rest) (hwf : i.wf = true) :
    step s = exec i { s with pending := rest } :=
  step_word_ok s h (decodeOfEncodeIsIdentity i hwf)

/-- An accepted edge of the acquisition that appends no bit (41_capture R69 to R72). -/
theorem run_forward (k : Nat) (he : s.capEn = true) (hp : s.phase = p)
    (h : s.pending = edgeInputs s.edgeTs (d :: gaps) ++ rest)
    (hf : Forward p (interval (s.edgeTs + d) s.edgeTs) q pol) :
    run (k + 1) s = run k { s with
      phase := q, capEdge := pol, edgeTs := s.edgeTs + d, resp := none, acts := [.setCapturePolarity pol]
      pending := edgeInputs (s.edgeTs + d) gaps ++ rest } := by
  apply run_succ_of_next
  rw [step_encode h rfl]
  exact exec_edge_of_forward (s := { s with pending := _ }) he (hp ▸ hf)

end

/-! ## The acquisition, stage by stage -/

section
variable {s : State} {f : FrameTiming} {v : Frame} {t0 : Tick} {rest : List Input} {k : Nat}

/-- After START and the callback: the block listens, with the 83 edges still to come (43_trigger R89, R90). -/
def listening (s : State) (t0 : Tick) (f : FrameTiming) (rest : List Input) : State :=
  { beginCapture t0 (beginAcquisition s).clearOutputs with pending := edgeInputs t0 f.gaps ++ rest }

/-- The block waits in WaitData for bit `k` of the frame, with the bits before it in ACC; the last tick is `clock`. -/
def waitingForBit (s : State) (v : Frame) (f : FrameTiming) (rest : List Input) (k : Nat) (clock : Tick) : State :=
  { s with
    phase := .waitData, capEdge := .positive, edgeTs := clock, acc := framePrefix v k, cnt := BitVec.ofNat 6 k
    resp := none, acts := [.setCapturePolarity .positive]
    pending := edgeInputs clock ((f.bits.drop k).flatMap BitTiming.ticks) ++ rest }

/-- The low part of bit `k` is over: the edge that comes next in `inputs` ends its high part. -/
def measuringBit (s : State) (v : Frame) (k : Nat) (clock : Tick) (inputs : List Input) : State :=
  { s with
    phase := .data, capEdge := .negative, edgeTs := clock, acc := framePrefix v k, cnt := BitVec.ofNat 6 k
    resp := none, acts := [.setCapturePolarity .negative], pending := inputs }

theorem run_start_delay (hp : isStartable s.phase = true) (h : s.pending = acquisitionInputs t0 f ++ rest) :
    run 2 s = .next (listening s t0 f rest) := by
  have hstart : step s = .next
      { beginAcquisition s.clearOutputs with
        pending := .word (encode (.delay t0)) :: edgeInputs t0 f.gaps ++ rest } := by
    rw [step_encode h rfl, exec_start]
    exact congrArg Host.Outcome.next (if_pos hp)
  rw [run_succ_of_next 1 hstart]
  refine run_succ_of_next 0 ?_
  rw [step_encode rfl rfl]
  rfl

theorem run_acknowledgement (he : s.capEn = true) (hp : s.phase = .waitAck) (hempty : s.cnt = 0 ∧ s.acc = 0)
    (hf : f.Carries v) (h : s.pending = edgeInputs s.edgeTs f.gaps ++ rest) :
    ∃ clock, run 3 s = .next (waitingForBit s v f rest 0 clock) := by
  obtain ⟨hlow, hhigh, -, -⟩ := hf
  obtain ⟨hcnt, hacc⟩ := hempty
  rw [f.gaps_eq] at h
  refine ⟨s.edgeTs + BitVec.ofNat 16 f.latency + BitVec.ofNat 16 f.ackLow + BitVec.ofNat 16 f.ackHigh, ?_⟩
  refine Eq.trans (run_forward 2 he hp h (.waitAck _)) ?_
  refine Eq.trans (run_forward 1 he rfl rfl (.ack _ (interval_of_ack hlow _))) ?_
  refine Eq.trans (run_forward 0 he rfl rfl (.waitDataStart _ (interval_of_ack hhigh _))) ?_
  rw [run_zero, waitingForBit, framePrefix_zero, ← hacc, hcnt]
  rfl

/-- The next bit of a timing that carries `v`. -/
theorem FrameTiming.Carries.drop_eq (hf : f.Carries v) (hk : k < 40) :
    ∃ g : BitTiming, f.bits.drop k = g :: f.bits.drop (k + 1) ∧ g.Sends (v.getMsbD k) := by
  obtain ⟨-, -, hlength, hsends⟩ := hf
  have hlt : k < f.bits.length := by omega
  exact ⟨f.bits[k], List.drop_eq_getElem_cons hlt, hsends k _ (List.getElem?_eq_getElem hlt)⟩

/-- The two edges of bit `k`: the first goes on to Data, and the second is read as the bit. -/
theorem run_edges_of_bit (he : s.capEn = true) (hf : f.Carries v) (hk : k < 40) (clock : Tick) :
    ∃ clock' x, ReadsBit (interval x clock') (v.getMsbD k).toNat ∧
      ∀ t, exec (.edge x) (measuringBit s v k clock'
          (edgeInputs x ((f.bits.drop (k + 1)).flatMap BitTiming.ticks) ++ rest)) = .next t →
        run 2 (waitingForBit s v f rest k clock) = .next t := by
  obtain ⟨g, hdrop, hsends⟩ := hf.drop_eq hk
  refine ⟨clock + BitVec.ofNat 16 g.low, _, hsends.readsBit _, fun t ht => ?_⟩
  rw [waitingForBit, hdrop]
  refine Eq.trans (run_forward 1 he rfl rfl (hsends.forward clock)) ?_
  exact run_succ_of_next 0 (Eq.trans (step_encode rfl rfl) ht)

theorem nextAcc_measuringBit (s : State) (v : Frame) (hk : k < 40) (clock : Tick) (inputs : List Input) :
    nextAcc (measuringBit s v k clock inputs) (v.getMsbD k).toNat = framePrefix v (k + 1) :=
  framePrefix_succ v hk

/-- After a bit before the 40th the block waits for the next one (41_capture R73, 42_frame R78). -/
theorem run_bit (he : s.capEn = true) (hf : f.Carries v) (hk : k < 39) (clock : Tick) :
    ∃ clock', run 2 (waitingForBit s v f rest k clock) = .next (waitingForBit s v f rest (k + 1) clock') := by
  obtain ⟨clock₁, x, hbit, hrun⟩ := run_edges_of_bit (rest := rest) he hf (show k < 40 by omega) clock
  have hcnt : (BitVec.ofNat 6 k).toNat ≠ 39 := by
    rw [BitVec.toNat_ofNat]
    omega
  refine ⟨x, hrun _ ?_⟩
  rw [exec_edge_of_bit (s := measuringBit ..) he rfl hbit hcnt, nextAcc_measuringBit s v (by omega), waitingForBit,
    BitVec.ofNat_add]
  rfl

theorem run_bits (he : s.capEn = true) (hf : f.Carries v) (clock : Tick) (hk : k ≤ 39) :
    ∃ clock', run (2 * k) (waitingForBit s v f rest 0 clock) = .next (waitingForBit s v f rest k clock') := by
  induction k with
  | zero => exact ⟨clock, rfl⟩
  | succ k ih =>
    obtain ⟨clock₁, hbefore⟩ := ih (by omega)
    obtain ⟨clock₂, hbit⟩ := run_bit (rest := rest) he hf (show k < 39 by omega) clock₁
    exact ⟨clock₂, (run_add (2 * k) 2 hbefore).trans hbit⟩

/-- The 40th bit completes the frame, and no input is left over (42_frame R79). -/
theorem run_fortieth (he : s.capEn = true) (hf : f.Carries v) (clock : Tick) :
    ∃ clock', run 2 (waitingForBit s v f rest 39 clock) =
      .next (completeFrame { waitingForBit s v f rest 40 clock' with pending := rest }) := by
  obtain ⟨clock₁, x, hbit, hrun⟩ := run_edges_of_bit (rest := rest) he hf (show 39 < 40 by decide) clock
  obtain ⟨-, -, hlength, -⟩ := hf
  rw [List.drop_of_length_le hlength.le] at hrun
  refine ⟨x, hrun _ ?_⟩
  rw [exec_edge_of_fortieth (s := measuringBit ..) he rfl hbit rfl, nextAcc_measuringBit s v (by decide)]
  rfl

/-- The 85 inputs of a frame end in its completion, whatever its checksum, with the frame in ACC, the Reading and the
history as before, and all inputs taken (60_exceptions R118). -/
theorem run_acquisition (hinv : Inv s) (hp : s.phase = .idle ∨ s.phase = .ready) (hf : f.Carries v)
    (h : s.pending = acquisitionInputs t0 f ++ rest) :
    ∃ u, run 85 s = .next (completeFrame u) ∧ u.acc = v ∧ u.rdHum = s.rdHum ∧ u.rdTSign = s.rdTSign ∧
      u.rdTMag = s.rdTMag ∧ u.pending = rest ∧ u.history = s.history := by
  have hstartable := (isStartable_iff _).mpr hp
  have hempty := hinv.empty_of_not_capture (isCapture_of_startable hstartable)
  have hstart := run_start_delay hstartable h
  obtain ⟨clock₁, hack⟩ := run_acknowledgement (s := listening s t0 f rest) rfl rfl hempty hf rfl
  obtain ⟨clock₂, hbits⟩ := run_bits (s := listening s t0 f rest) rfl hf clock₁ (Nat.le_refl 39)
  obtain ⟨x, hlast⟩ := run_fortieth (s := listening s t0 f rest) rfl hf clock₂
  have hrun := (run_add 2 83 hstart).trans <| (run_add 3 80 hack).trans <| (run_add 78 2 hbits).trans hlast
  exact ⟨_, hrun, framePrefix_forty v, rfl, rfl, rfl, rfl, rfl⟩

end

/-- Settles O51: the acquisition ends in the completion of a frame that is not valid. -/
theorem invalidFrameLeavesReading : Obligations.InvalidFrameLeavesReading := by
  intro s v f t0 rest hinv hp hf h hv
  obtain ⟨u, hrun, rfl, hhum, hsign, hmag, hpending, hhistory⟩ := run_acquisition hinv hp hf h
  rw [completeFrame_of_invalid u hv, idleEntry_eq] at hrun
  exact ⟨_, hrun, rfl, hhum, hsign, hmag, hpending, by rw [hhistory]⟩

end Sys2Proof.Machine
end

section
/-! The trigger controller (spec/43_trigger.md R89, R90, R93): the whole next state of START and of DELAY. -/

namespace Sys2Proof.Machine

/-- Settles O14: `isStartable` decides the branch, and `beginAcquisition` emits its three actions onto cleared outputs. -/
theorem startBeginsAcquisitionUnlessBusy : Obligations.StartBeginsAcquisitionUnlessBusy := by
  intro s
  rw [exec_start]
  refine ⟨fun hp => ?_, fun hidle hready => ?_⟩
  · rw [if_pos ((isStartable_iff _).mpr hp), beginAcquisition_eq, State.clearOutputs_eq]
    rfl
  · have hbusy : ¬ isStartable s.phase = true := fun h => ((isStartable_iff _).mp h).elim hidle hready
    rw [if_neg hbusy, State.clearOutputs_eq]

/-- Settles O15: an armed one-shot in Start selects `beginCapture`, which emits its four actions onto cleared outputs. -/
theorem delayInStartEnablesCapture : Obligations.DelayInStartEnablesCapture := by
  intro s t harmed hp
  rw [exec_delay, if_neg (by simp [harmed]), if_pos hp, beginCapture_eq, State.clearOutputs_eq]
  rfl

/-- Settles O16: an unarmed DELAY only clears the outputs; an armed one outside Start is left to `disarmOneShot`. -/
theorem delayElsewhereOnlyDisarms : Obligations.DelayElsewhereOnlyDisarms := by
  intro s t
  rw [exec_delay]
  refine ⟨fun hoff => ?_, fun harmed hp => ?_⟩
  · rw [if_pos hoff, State.clearOutputs_eq]
  · rw [if_neg (by simp [harmed]), if_neg hp, disarmOneShot_eq, State.clearOutputs_eq]
    rfl

end Sys2Proof.Machine
end

section
/-! The sensor facade (spec/44_facade.md R94 to R96): the whole next state of STATUS, READ_TEMP and READ_HUM. -/

namespace Sys2Proof.Machine

/-! ## STATUS -/

theorem statusOf_of_busy {p : Phase} (hready : p ≠ .ready) (hidle : p ≠ .idle) : statusOf p = .busy := by
  rw [statusOf, if_neg hready, if_neg hidle]

/-- STATUS writes the outputs of the step only. -/
theorem exec_status_eq {s : State} {u : Status} (h : statusOf s.phase = u) :
    exec .status s = .next { s with resp := some (.status u.code), acts := [] } := by
  rw [exec_status, h, State.respond_eq, State.clearOutputs_eq]

/-- Settles O17: `statusOf` separates Ready and Idle from the other phases, and `Status.code` numbers the three. -/
theorem statusReportsPhase : Obligations.StatusReportsPhase := by
  intro s
  refine ⟨fun hp => ?_, fun hp => ?_, fun hready hidle => ?_⟩
  · exact exec_status_eq (congrArg statusOf hp)
  · exact exec_status_eq (congrArg statusOf hp)
  · exact exec_status_eq (statusOf_of_busy hready hidle)

/-! ## The values of the Reading -/

theorem tenths_eq (n : Int) : tenths n = (n : Rat) / 10 := Rat.mkRat_eq_div n 10

/-- 42_frame R84. -/
theorem humidityValue_eq (hum : BitVec 16) : humidityValue hum = (hum.toNat : Rat) / 10 := by
  rw [humidityValue, tenths_eq, Int.cast_natCast]

/-- 42_frame R85. -/
theorem temperatureValue_eq (sign : BitVec 1) (mag : BitVec 15) :
    temperatureValue sign mag =
      (if sign = 1 then (-1 : Rat) else 1) * (mag.toNat : Rat) / 10 + Config.calOffset := by
  rw [temperatureValue, tenths_eq, signedTenths]
  split
  · rw [Int.cast_neg, Int.cast_natCast, neg_one_mul]
  · rw [Int.cast_natCast, one_mul]

/-- 30_encoding R53: the sign is bit 15, above the 15 bits of the magnitude. -/
theorem temperatureRaw_eq (sign : BitVec 1) (mag : BitVec 15) :
    temperatureRaw sign mag = BitVec.ofNat 16 (2 ^ 15 * sign.toNat + mag.toNat) := by
  have happend : (temperatureRaw sign mag).toNat = 2 ^ 15 * sign.toNat + mag.toNat := by
    rw [temperatureRaw, append_toNat, Nat.mul_comm]
  rw [← happend, BitVec.ofNat_toNat, BitVec.setWidth_eq]

/-! ## The reads -/

/-- What a read leaves behind: IdleEntry on the cleared outputs, with the response kept. -/
theorem idleEntry_respond_eq (c : IdleCause) (r : Response) (s : State) :
    idleEntry c (s.clearOutputs.respond r) = { s with
      phase := .idle, acc := 0, cnt := 0, capEn := false, resp := some r
      acts := [.disableCapture], history := s.history ++ [.idleEntered c] } := by
  rw [idleEntry_eq, State.respond_eq, State.clearOutputs_eq]
  rfl

/-- Settles O18: the response is TRAW and TVAL in arithmetic, and `idleEntry` writes the rest. -/
theorem readTempAnswersTemperatureAndIdles : Obligations.ReadTempAnswersTemperatureAndIdles := by
  rintro s v rfl
  rw [exec_readTemp, idleEntry_respond_eq, temperatureResponse, temperatureRaw_eq, temperatureValue_eq]

/-- Settles O19: the response is HRAW and HVAL in arithmetic, and `idleEntry` writes the rest. -/
theorem readHumAnswersHumidityAndIdles : Obligations.ReadHumAnswersHumidityAndIdles := by
  rintro s v rfl
  rw [exec_readHum, idleEntry_respond_eq, humidityResponse, humidityValue_eq]

end Sys2Proof.Machine
end

section
/-! Exceptions (spec/60_exceptions.md R99 to R118): every instruction is accepted, what a recorded error says of its EDGE
and of the state after it, what moves a capture phase on, and the acquisition of a valid frame. -/

namespace Sys2Proof.Machine

section
variable {i : Instr} {x : Tick} {s t : State} {p : Phase} {iv : Int} {c : IdleCause}

/-! ## Every instruction is accepted -/

/-- 60_exceptions R99, R109: `exec` has no outcome but Next. -/
theorem exec_total (i : Instr) (s : State) : ∃ t, exec i s = .next t := by
  cases h : exec i s with
  | next t => exact ⟨t, rfl⟩
  | fault r => exact nomatch r
  | refused r => exact absurd h (exec_ne_refused i s r)

/-- One EDGE records nothing, or one event that is no refusal (60_exceptions R108). -/
theorem EdgeOutcome.history_cases (h : EdgeOutcome x s t) :
    t.history = s.history ∨ ∃ e, isRefused e = false ∧ t.history = s.history ++ [e] := by
  cases h with
  | noEffect | forward | bit => exact .inl rfl
  | violation | publish | mismatch => exact .inr ⟨_, rfl, rfl⟩

theorem EdgeOutcome.pending_eq (h : EdgeOutcome x s t) : t.pending = s.pending := by cases h <;> rfl

theorem EdgeOutcome.resets_eq (h : EdgeOutcome x s t) : t.resets = s.resets := by cases h <;> rfl

/-! ## What a recorded error says -/

theorem violates_iff (p : Phase) (iv : Int) :
    Violates p iv ↔ (p = .ack ∧ ¬ (55 ≤ iv ∧ iv ≤ 105)) ∨ (p = .waitDataStart ∧ ¬ (55 ≤ iv ∧ iv ≤ 105)) ∨
      (p = .waitData ∧ ¬ (25 ≤ iv ∧ iv ≤ 75)) ∨ (p = .data ∧ ¬ (2 ≤ iv ∧ iv ≤ 95)) := by
  constructor
  · rintro (⟨_, h⟩ | ⟨_, h⟩ | ⟨_, h⟩ | ⟨_, h⟩)
    · exact .inl ⟨rfl, h⟩
    · exact .inr (.inl ⟨rfl, h⟩)
    · exact .inr (.inr (.inl ⟨rfl, h⟩))
    · exact .inr (.inr (.inr ⟨rfl, h⟩))
  · rintro (⟨rfl, h⟩ | ⟨rfl, h⟩ | ⟨rfl, h⟩ | ⟨rfl, h⟩)
    · exact .ack _ h
    · exact .waitDataStart _ h
    · exact .waitData _ h
    · exact .data _ h

/-- 44_facade R95, R96: a read records its own entry to Idle. -/
theorem history_of_exec_read (hi : i = .readTemp ∨ i = .readHum) (h : exec i s = .next t) :
    t.history = s.history ++ [.idleEntered (.consumed s.phase)] := by
  rcases hi with rfl | rfl
  · cases h
    rfl
  · cases h
    rfl

/-- An entry to Idle is recorded by a read, as Consumed, or by an EDGE. -/
theorem exec_idleEntered_cases (h : exec i s = .next t) (hr : t.history = s.history ++ [.idleEntered c]) :
    c = .consumed s.phase ∨ ∃ x, i = .edge x ∧ EdgeOutcome x s.clearOutputs t := by
  cases exec_effect h with
  | outputsOnly | acquisitionBegun | captureBegun | disarmed =>
    have hsilent : s.history = s.history ++ [.idleEntered c] := hr
    simp at hsilent
  | consumed hi =>
    cases List.append_cancel_left (hr.symm.trans (history_of_exec_read hi h))
    exact .inl rfl
  | edge x ho => exact .inr ⟨x, rfl, ho⟩

/-- The two outcomes of an EDGE that enter Idle clear the frame and leave the Reading and the response (41_capture R74). -/
theorem EdgeOutcome.of_idleEntered (h : EdgeOutcome x s t) (hr : t.history = s.history ++ [.idleEntered c]) :
    t.phase = .idle ∧ t.acc = 0 ∧ t.cnt = 0 ∧ t.capEn = false ∧ t.rdHum = s.rdHum ∧ t.rdTSign = s.rdTSign ∧
      t.rdTMag = s.rdTMag ∧ t.resp = s.resp := by
  cases h with
  | noEffect | forward | bit => simp at hr
  | publish => exact nomatch List.append_cancel_left hr
  | violation | mismatch => exact ⟨rfl, rfl, rfl, rfl, rfl, rfl, rfl, rfl⟩

/-- A TimingViolation names the phase and the interval of the EDGE that recorded it (60_exceptions R100). -/
theorem EdgeOutcome.of_timingViolation (h : EdgeOutcome x s t)
    (hr : t.history = s.history ++ [.idleEntered (.timingViolation p iv)]) :
    s.capEn = true ∧ p = s.phase ∧ iv = interval x s.edgeTs ∧ Violates p iv := by
  cases h with
  | noEffect | forward | bit => simp at hr
  | publish | mismatch => exact nomatch List.append_cancel_left hr
  | violation he hv =>
    cases List.append_cancel_left hr
    exact ⟨he, rfl, rfl, hv⟩

/-! ## A parked capture phase -/

theorem ne_idle_and_ne_ready_of_isCapture (hp : isCapture p = true) : p ≠ .idle ∧ p ≠ .ready := by
  constructor <;> rintro rfl <;> cases hp

/-- In a capture phase START is not accepted and no callback is pending, so only the outputs of the step change
(60_exceptions R116). -/
theorem exec_of_parked (hinv : Inv s) (hp : isCapture s.phase = true) (hedge : ∀ x, i ≠ .edge x)
    (htemp : i ≠ .readTemp) (hhum : i ≠ .readHum) : ∃ r, exec i s = .next { s with resp := r, acts := [] } := by
  cases i with
  | start =>
    obtain ⟨hidle, hready⟩ := ne_idle_and_ne_ready_of_isCapture hp
    exact ⟨none, (startBeginsAcquisitionUnlessBusy s).2 hidle hready⟩
  | delay x =>
    obtain ⟨hoff, -⟩ := hinv.capture_line hp
    exact ⟨none, (delayElsewhereOnlyDisarms s x).1 hoff⟩
  | status => exact ⟨_, exec_status_eq rfl⟩
  | classify q iv => exact ⟨_, exec_classify q iv s⟩
  | edge x => exact absurd rfl (hedge x)
  | readTemp => exact absurd rfl htemp
  | readHum => exact absurd rfl hhum

end

/-- Settles O12: `exec` is total, and of its effects only a read and an EDGE record an event. -/
theorem everyInstructionIsAccepted : Obligations.EveryInstructionIsAccepted := by
  intro i s
  obtain ⟨t, h⟩ := exec_total i s
  refine ⟨t, h, ?_⟩
  cases exec_effect h with
  | outputsOnly | acquisitionBegun | captureBegun | disarmed => exact ⟨rfl, rfl, .inl rfl⟩
  | consumed => exact ⟨rfl, rfl, .inr ⟨_, rfl, rfl⟩⟩
  | edge x ho => exact ⟨ho.pending_eq, ho.resets_eq, ho.history_cases⟩

/-- Settles O46: either error is recorded by an EDGE, whose two outcomes that enter Idle leave what is asked; Idle is
startable. -/
theorem errorsLeaveStartableIdle : Obligations.ErrorsLeaveStartableIdle := by
  intro i s t h herror
  obtain ⟨c, hr, x, -, ho⟩ : ∃ c, t.history = s.history ++ [.idleEntered c] ∧
      ∃ x, i = .edge x ∧ EdgeOutcome x s.clearOutputs t := by
    rcases herror with ⟨p, iv, hr⟩ | ⟨v, hr⟩
    · exact ⟨_, hr, (exec_idleEntered_cases h hr).resolve_left nofun⟩
    · exact ⟨_, hr, (exec_idleEntered_cases h hr).resolve_left nofun⟩
  obtain ⟨hidle, hacc, hcnt, he, hhum, hsign, hmag, hresp⟩ := ho.of_idleEntered hr
  have hstart := (startBeginsAcquisitionUnlessBusy t).1 (.inl hidle)
  exact ⟨hidle, hacc, hcnt, he, hhum, hsign, hmag, hresp, _, hstart, rfl⟩

/-- Settles O45: a recorded TimingViolation is the violating outcome of an EDGE, and a violating EDGE has no other. -/
theorem timingViolationExactlyOutsideWindow : Obligations.TimingViolationExactlyOutsideWindow := by
  intro i s t p iv h
  simp only [← violates_iff]
  refine ⟨⟨fun hr => ?_, ?_⟩, fun hr => ?_⟩
  · obtain ⟨x, hi, ho⟩ := (exec_idleEntered_cases h hr).resolve_left nofun
    exact ⟨x, hi, ho.of_timingViolation hr⟩
  · rintro ⟨x, rfl, he, rfl, rfl, hv⟩
    cases h.symm.trans (exec_edge_of_violates he hv)
    rfl
  · obtain ⟨hidle, hacc, hcnt, -⟩ := errorsLeaveStartableIdle i s t h (.inl ⟨p, iv, hr⟩)
    exact ⟨hidle, hacc, hcnt⟩

/-- Settles O48: the registers, the phase among them, stay as they were, and STATUS answers Busy in every capture phase. -/
theorem parkedPhaseLeftOnlyByEdgeOrRead : Obligations.ParkedPhaseLeftOnlyByEdgeOrRead := by
  intro i s hinv hp hedge htemp hhum
  obtain ⟨r, hexec⟩ := exec_of_parked hinv hp hedge htemp hhum
  obtain ⟨hidle, hready⟩ := ne_idle_and_ne_ready_of_isCapture hp
  exact ⟨_, _, hexec, rfl, exec_status_eq (statusOf_of_busy hready hidle), rfl⟩

/-- Settles O50: the acquisition ends in the completion of a valid frame, which `publishFrame` publishes. -/
theorem validFrameIsReceived : Obligations.ValidFrameIsReceived := by
  intro s v f t0 rest hinv hp hf h hv
  obtain ⟨u, hrun, rfl, -, -, -, hpending, hhistory⟩ := run_acquisition hinv hp hf h
  rw [completeFrame_of_valid u hv, publishFrame_eq, frameHumidity_eq, frameTemperature_eq, frameTSign_eq,
    frameTMag_eq] at hrun
  exact ⟨_, hrun, rfl, rfl, rfl, rfl, hpending, by rw [hhistory]⟩

end Sys2Proof.Machine
end

section
/-! What ends an acquisition (spec/70_reset_and_hazards.md R131): the phase it ends in, and the event that says so. -/

namespace Sys2Proof.Machine

section
variable {x : Tick} {s t : State} {p q : Phase} {iv : Int} {pol : Polarity} {c : IdleCause}

theorem CompletesAcquisition.phase_ne (h : CompletesAcquisition s t) : t.phase ≠ s.phase := by
  intro he
  obtain ⟨hbusy, hdone⟩ := h
  rw [he, hbusy] at hdone
  cases hdone

theorem CompletesAcquisition.ne_ready (h : CompletesAcquisition s t) : s.phase ≠ .ready := by
  intro hp
  obtain ⟨hbusy, -⟩ := h
  rw [hp] at hbusy
  cases hbusy

theorem not_recordsPublication_of_silent (hr : t.history = s.history) : ¬ RecordsPublication s t := by
  rintro ⟨_, _, hpub⟩
  simp [hr] at hpub

theorem not_recordsPublication_of_idleEntered (hr : t.history = s.history ++ [.idleEntered c]) :
    ¬ RecordsPublication s t := by
  rintro ⟨_, _, hpub⟩
  exact nomatch List.append_cancel_left (hr.symm.trans hpub)

/-- Ready is entered from Data alone, by `publish` (10_state R18). -/
theorem Forward.ne_ready (h : Forward p iv q pol) : q ≠ .ready := by cases h <;> nofun

/-- Of the outcomes of an EDGE, `publish` alone enters Ready, and it alone records FramePublished (42_frame R83). -/
theorem EdgeOutcome.ready_iff_recordsPublication (h : EdgeOutcome x s t) (hs : s.phase ≠ .ready) :
    t.phase = .ready ↔ RecordsPublication s t := by
  cases h with
  | noEffect => exact iff_of_false hs (not_recordsPublication_of_silent rfl)
  | forward _ _ _ hf => exact iff_of_false hf.ne_ready (not_recordsPublication_of_silent rfl)
  | bit => exact iff_of_false nofun (not_recordsPublication_of_silent rfl)
  | violation | mismatch => exact iff_of_false nofun (not_recordsPublication_of_idleEntered rfl)
  | publish => exact iff_of_true rfl ⟨_, _, rfl⟩

end

/-- Settles O49: an accepted START and the callback in Start lead to a Busy phase, and a read enters Idle, so Ready is
left to the EDGE that publishes. -/
theorem acquisitionSucceedsExactlyOnPublication : Obligations.AcquisitionSucceedsExactlyOnPublication := by
  intro i s t h hdone
  cases exec_effect h with
  | outputsOnly | disarmed => exact absurd rfl hdone.phase_ne
  | acquisitionBegun | captureBegun => exact nomatch hdone.2
  | consumed hi =>
    exact ⟨iff_of_false nofun (not_recordsPublication_of_idleEntered (history_of_exec_read hi h)), .inr ⟨hi, rfl⟩⟩
  | edge x ho => exact ⟨ho.ready_iff_recordsPublication hdone.ne_ready, .inl ⟨x, rfl⟩⟩

end Sys2Proof.Machine
end

section
/-! Sample words of the opcode map (spec/30_encoding.md R48 to R52). -/

namespace Sys2Proof

theorem decode_of_encode_eq {w : Word} {i : Instr} (hwf : i.wf = true) (hw : encode i = w) : decode w = .ok i :=
  hw ▸ decodeOfEncodeIsIdentity i hwf

/-- Settles O1: each accepted word is the encoding of its well-formed instruction, so it decodes by O2; each refused
word has its reason as the first condition it fails. -/
theorem decodeSampleWords : Obligations.DecodeSampleWords := by
  refine ⟨?start, ?status, ?readTemp, ?readHum, ?delay, ?edge, ?classifyData, ?classifyAck, ?opcode, ?bit, ?field⟩
  case start | status | readTemp | readHum | delay | edge | classifyData | classifyAck =>
    exact decode_of_encode_eq rfl rfl
  case opcode | bit | field => exact decode_of_rejectReason rfl

end Sys2Proof
end
